-- ==== Sys2Proof/Word.lean ====
section
/-! DEFINITION. The word types of the PI-VM core: what its ports carry as bits. -/

namespace Sys2Proof

/-- A byte, unsigned `0..255` (00_scope R5): a stack or heap cell, a frame byte, a flag label. -/
abbrev Byte := BitVec 8

/-- The halt signal and an exit status, `HALT_W` = 32 bits unsigned (00_scope R4, 10_state R16). -/
abbrev HaltWord := BitVec 32

/-- A register index as presented to SETREG and GETREG, `IDX_W` = 8 bits unsigned (00_scope R4). -/
abbrev RegIndex := BitVec 8

/-- "One instruction-sized unit of the program, a sequence of bytes"; it may be empty (00_scope R8). -/
abbrev Frame := List Byte

/-- "An ordered sequence of frames", indexed by instruction index (00_scope R8, 30_encoding R60). -/
abbrev Program := List Frame

end Sys2Proof
end

