-- ==== Sys2Proof/Syntax.lean ====
section
/-! DEFINITION. The syntax: one constructor per row of spec/opcode_table.json. -/

namespace Sys2Proof

/-- Every operation the spec names: the three frame classes, the five host commands, the seven internal steps
and the fourteen handler primitives. Only the frame classes have an encoding (30_encoding R71). -/
inductive Instr where
  /-- EMPTY: the frame of length 0 (30_encoding R63). -/
  | empty
  /-- FLAG: `[FLAG_ID, label] ++ extra`; the core ignores `extra` (30_encoding R64). -/
  | flag (label : Byte) (extra : List Byte)
  /-- OP: `opcode :: operands` with an opcode other than `FLAG_ID` (30_encoding R65). -/
  | op (opcode : Byte) (operands : List Byte)
  /-- INITIALIZE: three integers (70_reset R170). -/
  | init (archBits heapSize stackSize : Int)
  /-- ATTACH (40_flag_table R84). -/
  | attach (program : Program)
  /-- RUN (44_fetch_execute R110). -/
  | run
  /-- RUNP (44_fetch_execute R112). -/
  | runp (program : Program)
  /-- SNAPSHOT (70_reset R177). -/
  | snapshot
  /-- REBUILD (40_flag_table R80). -/
  | rebuild
  /-- ENTER (44_fetch_execute R111). -/
  | enter
  /-- CYCLE (44_fetch_execute R113). -/
  | cycle
  /-- DISPATCH of the frame fetched in this cycle (44_fetch_execute R116). -/
  | dispatch
  /-- FINISH (44_fetch_execute R117). -/
  | finish
  /-- ADVANCE (44_fetch_execute R118). -/
  | advance
  /-- RESULT (44_fetch_execute R129). -/
  | result
  /-- PUSH (41_stack R90). -/
  | push (value : Byte)
  /-- POP (41_stack R91). -/
  | pop
  /-- SETSP: a signed integer (41_stack R92). -/
  | setsp (value : Int)
  /-- GETSP (41_stack R93). -/
  | getsp
  /-- HEAPRD: a signed address (42_heap R100). -/
  | heaprd (addr : Int)
  /-- HEAPWR (42_heap R101). -/
  | heapwr (addr : Int) (value : Byte)
  /-- SETREG: the value port is wider than a register (43_registers R105). -/
  | setreg (index : RegIndex) (value : Nat)
  /-- GETREG (43_registers R106). -/
  | getreg (index : RegIndex)
  /-- LOOKUP (40_flag_table R83). -/
  | lookup (label : Byte)
  /-- SETIP: an instruction index (44_fetch_execute R123). -/
  | setip (target : Nat)
  /-- GETIP (44_fetch_execute R124). -/
  | getip
  /-- JMPFLAG (44_fetch_execute R126). -/
  | jmpflag (label : Byte)
  /-- SETHALT (44_fetch_execute R127). -/
  | sethalt (value : HaltWord)
  /-- OPERAND: byte `j` of the fetched frame (44_fetch_execute R128). -/
  | operand (j : Nat)
deriving DecidableEq, Repr

end Sys2Proof
end

