-- ==== Sys2Proof/Config.lean ====
section
/-! DEFINITION. The parameters of the core (00_scope R4): the handler contract that `OPTAB` is made of, the
configuration record, the default values, and the values the spec leaves open (uninterpreted constants). -/

namespace Sys2Proof

/-- A primitive invocation with its arguments: what a handler may ask of the core (44_fetch_execute R121 clause 1). -/
inductive Prim where
  | push (value : Byte)
  | pop
  | setsp (value : Int)
  | getsp
  | heaprd (addr : Int)
  | heapwr (addr : Int) (value : Byte)
  | setreg (index : RegIndex) (value : Nat)
  | getreg (index : RegIndex)
  | lookup (label : Byte)
  | setip (target : Nat)
  | getip
  | jmpflag (label : Byte)
  | sethalt (value : HaltWord)
  | operand (j : Nat)
deriving DecidableEq, Repr

/-- What a primitive returns to its handler. -/
inductive Value where
  /-- no result: PUSH, SETSP, HEAPWR, SETREG, SETIP, JMPFLAG, SETHALT -/
  | unit
  /-- the byte of POP, HEAPRD, OPERAND -/
  | byte (b : Byte)
  /-- the unsigned integer of GETSP, GETREG, GETIP -/
  | num (n : Nat)
  /-- the flag-table entry of LOOKUP -/
  | entry (e : Option Nat)
deriving DecidableEq, Repr

/-- The body of a handler: a finite sequence of primitive invocations, each depending on the results of the earlier
ones (44_fetch_execute R121: "a term of a free monad over the primitive signatures"). It has no state, no `raise`
and no way to the core but the primitives, and it ends (clauses 2, 3, 4, 6). -/
inductive Handler where
  | done
  | call (p : Prim) (next : Value → Handler)
deriving Inhabited

/-- An opcode table as the spec has it: a partial function from a byte to a handler, a handler being given its frame
(44_fetch_execute R121). -/
abbrev OpTable := Byte → Option (Frame → Handler)

/-- The fourteen primitives by name alone, for a handler written as data (DESIGN CHOICE, log 2). -/
inductive PrimName where
  | push | pop | setsp | getsp | heaprd | heapwr | setreg | getreg | lookup | setip | getip | jmpflag | sethalt | operand
deriving DecidableEq, Repr

/-- A handler's own computation on the values it has read, over the integers (44_fetch_execute R121 clause 4;
DESIGN CHOICE, log 2). A comparison gives 1 or 0. -/
inductive Expr where
  | lit (n : Int)
  /-- the `i`-th most recent result of a primitive -/
  | result (i : Nat)
  /-- a variable of the script's own; 0 until it is assigned -/
  | var (x : Nat)
  /-- the length of the frame the handler was given -/
  | frameLength
  | add (a b : Expr)
  | sub (a b : Expr)
  | mul (a b : Expr)
  | div (a b : Expr)
  | mod (a b : Expr)
  | eq (a b : Expr)
  | lt (a b : Expr)
deriving DecidableEq, Repr

/-- A handler written as data (DESIGN CHOICE, log 2). Its loops are bounded, so it ends whatever its primitives return
(44_fetch_execute R121 clause 4). -/
inductive Script where
  | done
  /-- one primitive with up to two arguments -/
  | call (p : PrimName) (a b : Expr)
  /-- a variable of the script's own takes a value -/
  | assign (x : Nat) (e : Expr)
  | seq (first second : Script)
  /-- `t` when the condition is not 0, `e` otherwise -/
  | cond (c : Expr) (t e : Script)
  /-- the body while the condition is not 0, at most as often as the bound says on entry -/
  | loop (bound c : Expr) (body : Script)
deriving DecidableEq, Repr

/-- What a script computes with: the results of its primitives so far, the most recent first, and its variables. -/
structure ScriptEnv where
  results : List Int
  vars : List Int
deriving DecidableEq, Repr

/-- What `OPTAB` binds an opcode to: a handler written as data, or the `n`-th of the uninterpreted handlers
`Config.freeHandler`, of which nothing but the contract is known (log 2). -/
inductive HandlerDesc where
  | script (body : Script)
  | free (n : Nat)
deriving DecidableEq, Repr

/-- The configuration record that does not change in the life of an instance (00_scope R4, 10_state R25). -/
structure Params where
  /-- `FLAG_ID` -/
  flagId : Byte
  /-- `OPTAB`: the first row for a byte counts -/
  optab : List (Byte × HandlerDesc)
  /-- `FAULT_STATUS`, not zero (`Params.legal`) -/
  faultStatus : HaltWord
deriving DecidableEq, Repr

/-- The constraint on the parameters: `FAULT_STATUS != 0` (00_scope R4). -/
def Params.legal (p : Params) : Prop := p.faultStatus ≠ 0

/-- The two data memories, as the index of a `MEM_INIT` draw. -/
inductive MemSpace where
  | stack
  | heap
deriving DecidableEq, Repr

namespace Config

/-- `FLAG_ID` of this hardware (00_scope R4). -/
def flagId : Byte := 0xFF

/-- `ARCH` of this hardware (00_scope R4). -/
def archBits : Nat := 32

/-- `HEAP_SIZE` of this hardware (00_scope R4). -/
def heapSize : Nat := 256

/-- `STACK_SIZE` of this hardware (00_scope R4). -/
def stackSize : Nat := 256

/-- `2^IP_W`: a program has fewer frames than this (30_encoding R61). -/
def programLimit : Nat := 2 ^ 32

/-- `MEM_INIT` (00_scope R4, 20_memory R49): the byte a cell holds that nothing has written since the INITIALIZE
numbered `draw`. FREE VALUE: nothing constrains it (log 3). -/
opaque memInit (space : MemSpace) (draw address : Nat) : Byte

/-- `FAULT_STATUS` of this hardware less one; FREE VALUE (log 4). -/
opaque faultStatusPred : Fin 4294967295

/-- `FAULT_STATUS` of this hardware: nonzero, its value not given (00_scope R4). -/
def faultStatus : HaltWord := BitVec.ofNat 32 (faultStatusPred.val + 1)

/-- This hardware's parameters: the default `FLAG_ID`, the empty opcode table and its `FAULT_STATUS` (00_scope R4). -/
def params : Params := { flagId := flagId, optab := [], faultStatus := faultStatus }

/-- A family of handlers of which only the contract is known: FREE VALUE (log 2). -/
opaque freeHandler (n : Nat) (f : Frame) : Handler

end Config

end Sys2Proof
end

