-- ==== Sys2Proof/Machine/State.lean ====
section
/-! DEFINITION. The state of one core instance (10_state R10), the model's stops, and the state after reset. -/

namespace Sys2Proof.Machine

/-- The run state (10_state R17). -/
inductive Fsm where
  | off
  | ready
  | running
  | halted
  | faulted
deriving DecidableEq, Repr

/-- The fault kinds (60_exceptions R141). -/
inductive FaultKind where
  | none
  | emptyProgram
  | malformedProgram
  | stackOverflow
  | stackUnderflow
  | segmentationFault
  | invalidInstructionPointer
  | invalidRegister
  | registerOverflow
  | unknownOpcode
deriving DecidableEq, Repr

/-- The message identifiers (60_exceptions R143). -/
inductive MsgId where
  | none
  | emptyProgram
  | flagNoLabel
  | flagAdjacent
  | stackOverflow
  | stackUnderflow
  | spBelowZero
  | spAboveCapacity
  | heapBelowZero
  | heapAboveCapacity
  | ipAdvance
  | ipSet
  | ipNoFlag
  | regIndexWrite
  | regIndexRead
  | regOverflow
  | unknownOpcode
  | shortFrame
deriving DecidableEq, Repr

/-- The fault record `(kind, msg, status)` (10_state R18). -/
structure FaultRecord where
  kind : FaultKind
  msg : MsgId
  status : HaltWord
deriving DecidableEq, Repr

/-- The configuration latch (10_state R20). -/
structure Cfg where
  archBits : Nat
  heapSize : Nat
  stackSize : Nat
deriving DecidableEq, Repr

/-- A byte memory: one cell for every address written since INITIALIZE, addresses strictly rising (log 3). -/
abbrev Memory := List Host.Cell

/-- The flag table: 256 entries, each `none` or an instruction index (10_state R22). -/
abbrev FlagTable := Vector (Option Nat) 256

/-- A command as the host issues it (60_exceptions R149). -/
inductive HostCommand where
  | initialization (archBits heapSize stackSize : Int)
  | attach (program : Program)
  | run
  | runp (program : Program)
  | snapshot
deriving DecidableEq, Repr

/-- The inspection record (70_reset R177). -/
structure Snapshot where
  regs : Vector Nat 4
  sp : Nat
  ip : Nat
  cycles : Nat
  flag : FlagTable
  fsm : Fsm
  halt : HaltWord
  fault : FaultRecord
deriving DecidableEq, Repr

/-- What a host command returned last (log 5). -/
inductive Reply where
  /-- nothing yet: no command, or a run in progress -/
  | none
  /-- the command was not admitted (70_reset R176) -/
  | refused
  /-- INITIALIZE or ATTACH ended without a fault -/
  | done
  /-- RESULT of a halted run: the exit status (44_fetch_execute R129) -/
  | ok (status : HaltWord)
  /-- RESULT of a fault (44_fetch_execute R129) -/
  | fault (record : FaultRecord)
  /-- SNAPSHOT (70_reset R177) -/
  | snapshot (record : Snapshot)
deriving DecidableEq, Repr

/-- The state: the spec's tuple (10_state R10), then the parameters (log 1) and the model's own fields (log 3, 5, 6, 15). -/
structure State where
  /-- `x[0..3]`: EAX, EBX, ECX, EDX (10_state R11, R12) -/
  regs : Vector Nat 4
  /-- `ip` (10_state R13) -/
  ip : Nat
  /-- `sp` (10_state R14) -/
  sp : Nat
  /-- `cycles` (10_state R15) -/
  cycles : Nat
  /-- `halt` (10_state R16) -/
  halt : HaltWord
  /-- `fsm` (10_state R17) -/
  fsm : Fsm
  /-- `fault` (10_state R18) -/
  fault : FaultRecord
  /-- `ip_written` (10_state R19) -/
  ipWritten : Bool
  /-- `cfg` (10_state R20) -/
  cfg : Cfg
  /-- `Program` (10_state R21) -/
  program : Program
  /-- `flag` (10_state R22) -/
  flag : FlagTable
  /-- `STACK` (10_state R23) -/
  stack : Memory
  /-- `HEAP` (10_state R24) -/
  heap : Memory
  /-- the parameters, constant (10_state R25) -/
  params : Params
  /-- the frame fetched at the start of the cycle (44_fetch_execute R113, R128) -/
  frame : Frame
  /-- the result port of the last primitive -/
  ret : Value
  /-- what the last host command returned -/
  reply : Reply
  /-- the commands the host has still to issue, in order -/
  inbox : List HostCommand
  /-- the number of the `MEM_INIT` draw in force -/
  draw : Nat
deriving DecidableEq, Repr

/-- Where the model stops without a next state. Both stops are in states that the spec's invariants exclude
(10_state R27 items 1 and 3), and both are safe: the model stops where nothing is said of the hardware (log 12). -/
inductive Fault where
  /-- CYCLE: `fsm = Running` and no frame stands at `ip`; raised by `execCycle` and `step`. Safe. -/
  | noFrameAtIp
  /-- POP: the cell that `sp` selects lies at or above `STACK_SIZE`; raised by `execPop`. Safe. -/
  | stackCellAbsent
deriving DecidableEq, Repr

/-- Where the model gives an operation no meaning. -/
inductive Refusal where
  /-- `exec`: an instruction that has no meaning yet. Safe. -/
  | notModelled (mnemonic : String)
  /-- a frame, a primitive, CYCLE, DISPATCH, FINISH or ADVANCE performed while no run is in progress: the spec performs
  them in a cycle only (60_exceptions R149, 70_reset R176). Safe (log 9). -/
  | outsideCycle
  /-- REBUILD outside `Ready` and `Running`, ENTER outside `Ready`: no command performs them there
  (40_flag_table R80, 44_fetch_execute R111). Safe (log 9). -/
  | outsideCommand
  /-- RESULT while no run has ended: its rule gives no value (44_fetch_execute R129). Safe (log 9). -/
  | noResult
  /-- DISPATCH while the fetched frame has no byte 0: it is performed on OP frames only (44_fetch_execute R113). Safe (log 9). -/
  | noOpcode
deriving DecidableEq, Repr

/-- The fault record without a fault (10_state R18). -/
def FaultRecord.clear : FaultRecord := { kind := .none, msg := .none, status := 0 }

/-- The table with no label declared (10_state R22). -/
def FlagTable.clear : FlagTable := Vector.replicate 256 none

/-- The state right after `INITIALIZE(32, 256, 256)`, the only reset of the core (70_reset R170), with the parameters of
this hardware. The model's own fields start empty (log 3, 5, 6, 15). -/
def State.reset : State where
  regs := Vector.replicate 4 0
  ip := 0
  sp := 0
  cycles := 0
  halt := 0
  fsm := .ready
  fault := FaultRecord.clear
  ipWritten := false
  cfg := { archBits := Config.archBits, heapSize := Config.heapSize, stackSize := Config.stackSize }
  program := []
  flag := FlagTable.clear
  stack := []
  heap := []
  params := Config.params
  frame := []
  ret := .unit
  reply := .none
  inbox := []
  draw := 0

end Sys2Proof.Machine
end

