-- ==== Sys2Proof/Machine/Ops.lean ====
section
/-! DEFINITION. The named operations over the state: memories, registers, raising a fault, the advance, and what surrounds a
cycle and a host command. Every meaning is written over these. -/

namespace Sys2Proof.Machine

/-- The outcome of an operation. -/
abbrev Out := Host.Outcome State Fault Refusal

/-! ### Memories (20_memory R40 to R49) -/

/-- The byte written at `a` since INITIALIZE; none where nothing has been written. -/
def Memory.get? : Memory → Nat → Option Byte
  | [], _ => none
  | c :: m, a => if c.1 = a then some c.2 else Memory.get? m a

/-- `MemWrite(_, a, 1, b)` (00_scope R6); it keeps the addresses strictly rising. -/
def Memory.write : Memory → Nat → Byte → Memory
  | [], a, b => [(a, b)]
  | c :: m, a, b =>
    if a < c.1 then (a, b) :: c :: m
    else if a = c.1 then (a, b) :: m
    else c :: Memory.write m a b

/-- The canonical form: addresses strictly rising, so that no address has two cells (log 3). -/
def Memory.wf : Memory → Bool
  | [] => true
  | [_] => true
  | c :: d :: m => decide (c.1 < d.1) && Memory.wf (d :: m)

/-- `MemRead(_, a, 1)` (00_scope R6): the byte last written, or the unspecified byte of the draw (20_memory R49). -/
def Memory.read (m : Memory) (space : MemSpace) (draw a : Nat) : Byte :=
  (m.get? a).getD (Config.memInit space draw a)

/-- The byte of stack cell `a`. -/
def State.stackAt (s : State) (a : Nat) : Byte := Memory.read s.stack .stack s.draw a

/-- The byte of heap cell `a`. -/
def State.heapAt (s : State) (a : Nat) : Byte := Memory.read s.heap .heap s.draw a

/-! ### Registers (43_registers) -/

/-- `x[i]`, `i` in `0..3`. -/
def State.getReg (s : State) (i : Fin 4) : Nat := s.regs[i]

/-- `x[i] <- v`; the range of `v` is tested before (43_registers R105). -/
def State.setReg (s : State) (i : Fin 4) (v : Nat) : State := { s with regs := s.regs.set i v }

/-! ### Numbers of the enumerations -/

/-- The code of a run state (10_state R17). -/
def Fsm.code : Fsm → Nat
  | .off => 0
  | .ready => 1
  | .running => 2
  | .halted => 3
  | .faulted => 4

/-- The code of a fault kind (60_exceptions R141). -/
def FaultKind.code : FaultKind → Nat
  | .none => 0
  | .emptyProgram => 1
  | .malformedProgram => 2
  | .stackOverflow => 3
  | .stackUnderflow => 4
  | .segmentationFault => 5
  | .invalidInstructionPointer => 6
  | .invalidRegister => 7
  | .registerOverflow => 8
  | .unknownOpcode => 9

/-- The number of a message identifier (60_exceptions R143). -/
def MsgId.code : MsgId → Nat
  | .none => 0
  | .emptyProgram => 1
  | .flagNoLabel => 2
  | .flagAdjacent => 3
  | .stackOverflow => 4
  | .stackUnderflow => 5
  | .spBelowZero => 6
  | .spAboveCapacity => 7
  | .heapBelowZero => 8
  | .heapAboveCapacity => 9
  | .ipAdvance => 10
  | .ipSet => 11
  | .ipNoFlag => 12
  | .regIndexWrite => 13
  | .regIndexRead => 14
  | .regOverflow => 15
  | .unknownOpcode => 16
  | .shortFrame => 17

/-- The kind a message identifier belongs to (60_exceptions R143). -/
def MsgId.kind : MsgId → FaultKind
  | .none => .none
  | .emptyProgram => .emptyProgram
  | .flagNoLabel | .flagAdjacent => .malformedProgram
  | .stackOverflow => .stackOverflow
  | .stackUnderflow => .stackUnderflow
  | .spBelowZero | .spAboveCapacity | .heapBelowZero | .heapAboveCapacity => .segmentationFault
  | .ipAdvance | .ipSet | .ipNoFlag => .invalidInstructionPointer
  | .regIndexWrite | .regIndexRead => .invalidRegister
  | .regOverflow => .registerOverflow
  | .unknownOpcode | .shortFrame => .unknownOpcode

/-! ### Taking a fault (60_exceptions R144). There is no return from one (R146): only INITIALIZE leaves `Faulted`. -/

/-- `raise K(m)`: the record is latched, the run state becomes `Faulted`, nothing else changes. What is abandoned is
abandoned by the caller, which goes on only while `fsm = Running`. -/
def State.raise (s : State) (m : MsgId) : State :=
  { s with fault := { kind := m.kind, msg := m, status := s.params.faultStatus }, fsm := .faulted }

/-- The operation `t`, unless a test names the fault to raise in its place (20_memory R48: the test precedes the commit). -/
def State.unless (s : State) (test : Option MsgId) (t : State) : State :=
  match test with
  | some m => s.raise m
  | none => t

/-! ### The instruction pointer (44_fetch_execute R118, R123, R126) -/

/-- The checked increment (R118). -/
def State.advance (s : State) : State :=
  if s.ip + 1 ≥ s.program.length then s.raise .ipAdvance else { s with ip := s.ip + 1 }

/-- A handler's explicit write of `ip`, which sets the latch (R123, R126). -/
def State.jump (s : State) (k : Nat) : State := { s with ip := k, ipWritten := true }

/-! ### Around a cycle (44_fetch_execute R113, R117, R119) -/

/-- The frame at `ip`, if there is one. -/
def State.fetch? (s : State) : Option Frame := s.program[s.ip]?

/-- The start of a cycle: the fetched frame is latched and `ip_written` cleared (R113). -/
def State.beginCycle (s : State) (f : Frame) : State := { s with frame := f, ipWritten := false }

/-- The end of a completed cycle (R119). A cycle that raised is not completed, and a halting cycle was counted by FINISH. -/
def State.endCycle (s : State) : State :=
  match s.fsm with
  | .running => { s with cycles := s.cycles + 1 }
  | _ => s

/-- Halt detection and the conditional advance (R117). -/
def State.finish (s : State) : State :=
  if s.halt ≠ 0 then { s with cycles := s.cycles + 1, fsm := .halted }
  else if s.ipWritten then s
  else s.advance

/-! ### Around a host command (44_fetch_execute R129, 70_reset R176) -/

/-- The command is not admitted: nothing changes but what the host is told (R176). -/
def State.refuse (s : State) : State := { s with reply := .refused }

/-- RESULT when a run has ended, nothing otherwise (R129). -/
def State.result? (s : State) : Option Reply :=
  match s.fsm with
  | .halted => some (.ok s.halt)
  | .faulted => some (.fault s.fault)
  | _ => none

/-- The command in progress returns RESULT to the host if the run has ended, `r` otherwise. -/
def State.deliver (s : State) (r : Reply) : State := { s with reply := s.result?.getD r }

/-- Everything SNAPSHOT shows (R177). -/
def State.observe (s : State) : Snapshot :=
  { regs := s.regs, sp := s.sp, ip := s.ip, cycles := s.cycles, flag := s.flag, fsm := s.fsm, halt := s.halt, fault := s.fault }

/-- The state INITIALIZE produces from a legal configuration (R170); the parameters and the host's further commands stay,
and a new `MEM_INIT` draw is in force (log 3). -/
def State.initialized (s : State) (cfg : Cfg) : State :=
  { State.reset with cfg := cfg, params := s.params, inbox := s.inbox, draw := s.draw + 1, reply := .done }

/-! ### Outcomes -/

/-- Performed inside a cycle only (60_exceptions R149; log 9). -/
def inCycle (s : State) (o : Out) : Out :=
  match s.fsm with
  | .running => o
  | _ => .refused .outsideCycle

/-- `g` applied to the next state, if there is one. -/
def mapNext (g : State → State) : Out → Out
  | .next s => .next (g s)
  | .fault r => .fault r
  | .refused r => .refused r

/-- Go on with `k` while the run goes on; after a fault nothing further is performed (60_exceptions R144). -/
def whileRunning (k : State → Out) : Out → Out
  | .next s =>
    match s.fsm with
    | .running => k s
    | _ => .next s
  | .fault r => .fault r
  | .refused r => .refused r

end Sys2Proof.Machine
end

