-- ==== Sys2Proof/Machine/Flags.lean ====
section
/-! DEFINITION. The flag table: the rebuild scan and the lookup (40_flag_table). The core has no condition codes (10_state
R26): a "flag" of this machine is a jump label. -/

namespace Sys2Proof.Machine

/-- `flag[l]` (40_flag_table R83). -/
def FlagTable.lookup (t : FlagTable) (label : Byte) : Option Nat := t[label.toFin]

/-- `flag[l] <- some k`. -/
def FlagTable.declare (t : FlagTable) (label : Byte) (k : Nat) : FlagTable := t.set label.toFin (some k)

/-- What the scan makes of one frame (40_flag_table R80, R81). -/
inductive Declaration where
  | nothing
  | label (l : Byte)
  | malformed (m : MsgId)
deriving DecidableEq, Repr

/-- The tests of the scan on one frame, the length before the label byte (40_flag_table R80, R81). -/
def declarationOf (flagId : Byte) : Frame → Declaration
  | [] => .nothing
  | b :: rest =>
    if b = flagId then
      match rest with
      | [] => .malformed .flagNoLabel
      | l :: _ => if l = flagId then .malformed .flagAdjacent else .label l
    else .nothing

/-- The scan from instruction index `k` on: the table it leaves, and the message of the first malformed frame, at which it
stops (40_flag_table R80, R82, R85). -/
def scanFlags (flagId : Byte) : Program → Nat → FlagTable → FlagTable × Option MsgId
  | [], _, t => (t, none)
  | f :: fs, k, t =>
    match declarationOf flagId f with
    | .nothing => scanFlags flagId fs (k + 1) t
    | .label l => scanFlags flagId fs (k + 1) (t.declare l k)
    | .malformed m => (t, some m)

/-- REBUILD (40_flag_table R80): the table is cleared, the Program scanned in index order, and `MalformedProgram` raised at
the first offending frame, with the entries recorded before it kept (R85). -/
def State.rebuild (s : State) : State :=
  let r := scanFlags s.params.flagId s.program 0 FlagTable.clear
  State.unless { s with flag := r.1 } r.2 { s with flag := r.1 }

/-- ENTER (44_fetch_execute R111). -/
def State.enter (s : State) : State :=
  State.rebuild { s with fsm := .running, sp := 0, ip := 0 }

end Sys2Proof.Machine
end

