-- ==== Sys2Proof/WellFormed.lean ====
section
/-! DEFINITION. Which terms of `Instr` are operations of the core under a given `FLAG_ID`. -/

namespace Sys2Proof

/-- `len(program) < 2^IP_W` (30_encoding R61). -/
def Program.fits (p : Program) : Bool := decide (p.length < Config.programLimit)

/-- The operand checks the types do not make: a flag label is any byte except `FLAG_ID` (30_encoding R64, R68), an opcode
is any byte except `FLAG_ID` (R65, R68), and a program has fewer than `2^IP_W` frames (R61). -/
def Instr.wellFormed (flagId : Byte) : Instr → Bool
  | .flag label _ => decide (label ≠ flagId)
  | .op opcode _ => decide (opcode ≠ flagId)
  | .attach p => Program.fits p
  | .runp p => Program.fits p
  | .empty | .init _ _ _ | .run | .snapshot | .rebuild | .enter | .cycle | .dispatch | .finish | .advance | .result
  | .push _ | .pop | .setsp _ | .getsp | .heaprd _ | .heapwr _ _ | .setreg _ _ | .getreg _ | .lookup _ | .setip _
  | .getip | .jmpflag _ | .sethalt _ | .operand _ => true

end Sys2Proof
end

