-- ==== Sys2Proof/Machine/Commands.lean ====
section
/-! DEFINITION. The host commands: INITIALIZE, ATTACH, RUN, RUNP, SNAPSHOT (70_reset R170 to R177, 40_flag_table R84,
44_fetch_execute R110, R112). A command that is not admitted is refused without effect (70_reset R176; log 8). -/

namespace Sys2Proof.Machine

/-- The legal arguments of INITIALIZE (70_reset R171). -/
def legalConfig (archBits heapSize stackSize : Int) : Bool :=
  decide (archBits ≥ 1) && decide (heapSize ≥ 0) && decide (stackSize ≥ 1)

/-- INITIALIZE (70_reset R170). -/
def execInitialize (archBits heapSize stackSize : Int) (s : State) : Out :=
  .next <|
    if s.fsm ≠ .running ∧ legalConfig archBits heapSize stackSize then
      s.initialized { archBits := archBits.toNat, heapSize := heapSize.toNat, stackSize := stackSize.toNat }
    else s.refuse

/-- ATTACH (40_flag_table R84). -/
def execAttach (program : Program) (s : State) : Out :=
  .next <|
    if s.fsm = .ready ∧ program.fits then
      (State.rebuild { s with program := program, ip := 0 }).deliver .done
    else s.refuse

/-- RUN (44_fetch_execute R110) up to the loop, whose cycles are the steps that follow (R120; log 7). -/
def execRun (s : State) : Out :=
  .next <|
    if s.fsm = .ready then
      if s.program.length = 0 then (s.raise .emptyProgram).deliver .none
      else s.enter.deliver .none
    else s.refuse

/-- RUNP (44_fetch_execute R112) up to the loop. The emptiness of the argument is tested before it replaces the Program. -/
def execRunp (program : Program) (s : State) : Out :=
  .next <|
    if s.fsm = .ready ∧ program.fits then
      if program.length = 0 then (s.raise .emptyProgram).deliver .none
      else (State.enter { s with program := program }).deliver .none
    else s.refuse

/-- SNAPSHOT (70_reset R177). -/
def execSnapshot (s : State) : Out :=
  .next <| if s.fsm = .off then s.refuse else { s with reply := .snapshot s.observe }

/-- The instruction a command of the host is. -/
def commandInstr : HostCommand → Instr
  | .initialization a h k => .init a h k
  | .attach p => .attach p
  | .run => .run
  | .runp p => .runp p
  | .snapshot => .snapshot

end Sys2Proof.Machine
end

