-- ==== Sys2Proof/Decode.lean ====
section
/-! DEFINITION. The decoder and the encoder of frames (30_encoding). A frame's length is given by its container (R69), so
the decoder takes one whole frame. -/

namespace Sys2Proof

/-- The three frame formats (30_encoding R62). -/
inductive FrameClass where
  | empty
  | flag
  | op
deriving DecidableEq, Repr

/-- Why a frame is no legal frame (30_encoding R68 items 2 and 3). -/
inductive DecodeError where
  /-- a flag frame of length 1 -/
  | flagNoLabel
  /-- a flag frame whose label byte is `FLAG_ID` -/
  | flagAdjacent
deriving DecidableEq, Repr

/-- The total function `class` of 30_encoding R62. -/
def classify (flagId : Byte) : Frame → FrameClass
  | [] => .empty
  | b :: _ => if b = flagId then .flag else .op

/-- The operation a frame stands for, or the name of what is wrong with it (30_encoding R63, R64, R65, R68). -/
def decodeFrame (flagId : Byte) : Frame → Except DecodeError Instr
  | [] => .ok .empty
  | b :: rest =>
    if b = flagId then
      match rest with
      | [] => .error .flagNoLabel
      | label :: extra => if label = flagId then .error .flagAdjacent else .ok (.flag label extra)
    else .ok (.op b rest)

/-- The frame of an operation; none for the operations without an encoding (30_encoding R71). -/
def encodeFrame (flagId : Byte) : Instr → Option Frame
  | .empty => some []
  | .flag label extra => some (flagId :: label :: extra)
  | .op opcode operands => some (opcode :: operands)
  | .init _ _ _ | .attach _ | .run | .runp _ | .snapshot | .rebuild | .enter | .cycle | .dispatch | .finish | .advance
  | .result | .push _ | .pop | .setsp _ | .getsp | .heaprd _ | .heapwr _ _ | .setreg _ _ | .getreg _ | .lookup _
  | .setip _ | .getip | .jmpflag _ | .sethalt _ | .operand _ => none

/-- A whole program decoded in index order, or the index of the first illegal frame and what is wrong with it. -/
def decodeProgramFrom (flagId : Byte) (k : Nat) : Program → Except (Nat × DecodeError) (List Instr)
  | [] => .ok []
  | f :: fs =>
    match decodeFrame flagId f with
    | .error e => .error (k, e)
    | .ok i =>
      match decodeProgramFrom flagId (k + 1) fs with
      | .error e => .error e
      | .ok is => .ok (i :: is)

/-- A whole program decoded from instruction index 0. -/
def decodeProgram (flagId : Byte) (p : Program) : Except (Nat × DecodeError) (List Instr) :=
  decodeProgramFrom flagId 0 p

/-- The program of a list of frame operations; none where one of them has no encoding. -/
def encodeProgram (flagId : Byte) : List Instr → Option Program
  | [] => some []
  | i :: is =>
    match encodeFrame flagId i, encodeProgram flagId is with
    | some f, some fs => some (f :: fs)
    | _, _ => none

/-- The first `n` bytes of a number, the least significant first. -/
def bytesOf : Nat → Nat → List Byte
  | 0, _ => []
  | n + 1, w => BitVec.ofNat 8 w :: bytesOf n (w / 256)

/-- The frame the opcode table's numbering gives: byte 0 is bits 7..0, byte 1 is bits 15..8 and so on. A flag frame cut
short before its label byte gets the label byte 0 (log 11). -/
def frameOfWord (flagId : Byte) (nbits w : Nat) : Frame :=
  match bytesOf ((nbits + 7) / 8) w with
  | [b] => if b = flagId then [b, 0] else [b]
  | f => f

/-- The instruction the decoder reads under the default `FLAG_ID` (the table's pattern shows the default). -/
def decodeTableWord (nbits w : Nat) : Option Instr :=
  match decodeFrame Config.flagId (frameOfWord Config.flagId nbits w) with
  | .ok i => some i
  | .error _ => none

end Sys2Proof
end

