-- ==== Sys2Proof/Machine/Operands.lean ====
section
/-! DEFINITION. Every operand form: the range tests of signed addresses, register indices, register values and jump targets,
the operand bytes of a frame, and the handlers of `OPTAB` written as data. -/

namespace Sys2Proof.Machine

/-! ### Range tests (20_memory R48). Each answers with the message of the fault to raise, or none. -/

/-- `0 <= value < capacity` for a signed operand (41_stack R92, 42_heap R100). -/
def rangeTest (value : Int) (capacity : Nat) (below above : MsgId) : Option MsgId :=
  if value < 0 then some below else if value ≥ capacity then some above else none

/-- SETSP's operand (41_stack R92). -/
def State.spTest (s : State) (value : Int) : Option MsgId :=
  rangeTest value s.cfg.stackSize .spBelowZero .spAboveCapacity

/-- A heap address (42_heap R100, R101). -/
def State.heapTest (s : State) (addr : Int) : Option MsgId :=
  rangeTest addr s.cfg.heapSize .heapBelowZero .heapAboveCapacity

/-- A register index in `{0,1,2,3}` (43_registers R105, R106). -/
def register? (index : RegIndex) : Option (Fin 4) :=
  if h : index.toNat < 4 then some ⟨index.toNat, h⟩ else none

/-- Byte `j` of the frame of the current cycle (44_fetch_execute R128). -/
def State.operand? (s : State) (j : Nat) : Option Byte := s.frame[j]?

/-! ### Handlers written as data (log 2) -/

/-- A result as the integer a script computes with; an undeclared label counts as -1. -/
def resultInt : Value → Int
  | .unit => 0
  | .byte b => b.toNat
  | .num n => n
  | .entry none => -1
  | .entry (some k) => k

/-- The value of an expression on a frame of length `len`. -/
def evalExpr (len : Nat) (env : ScriptEnv) : Expr → Int
  | .lit n => n
  | .result i => env.results.getD i 0
  | .var x => env.vars.getD x 0
  | .frameLength => len
  | .add a b => evalExpr len env a + evalExpr len env b
  | .sub a b => evalExpr len env a - evalExpr len env b
  | .mul a b => evalExpr len env a * evalExpr len env b
  | .div a b => evalExpr len env a / evalExpr len env b
  | .mod a b => evalExpr len env a % evalExpr len env b
  | .eq a b => if evalExpr len env a = evalExpr len env b then 1 else 0
  | .lt a b => if evalExpr len env a < evalExpr len env b then 1 else 0

/-- Variable `x` takes the value `v`; the variables below it that have none yet are 0. -/
def assignVar : List Int → Nat → Int → List Int
  | [], 0, v => [v]
  | [], x + 1, v => 0 :: assignVar [] x v
  | _ :: vs, 0, v => v :: vs
  | w :: vs, x + 1, v => w :: assignVar vs x v

/-- The invocation of a named primitive; an argument takes the width of its port (00_scope R4). -/
def invocation (a b : Int) : PrimName → Prim
  | .push => .push (BitVec.ofInt 8 a)
  | .pop => .pop
  | .setsp => .setsp a
  | .getsp => .getsp
  | .heaprd => .heaprd a
  | .heapwr => .heapwr a (BitVec.ofInt 8 b)
  | .setreg => .setreg (BitVec.ofInt 8 a) b.toNat
  | .getreg => .getreg (BitVec.ofInt 8 a)
  | .lookup => .lookup (BitVec.ofInt 8 a)
  | .setip => .setip a.toNat
  | .getip => .getip
  | .jmpflag => .jmpflag (BitVec.ofInt 8 a)
  | .sethalt => .sethalt (BitVec.ofInt 32 a)
  | .operand => .operand a.toNat

/-- What a script goes on with. -/
abbrev ScriptCont := ScriptEnv → Handler

/-- A loop of at most `n` rounds of a body, left when the condition fails. -/
def loopHandler (c : ScriptEnv → Bool) (body : ScriptEnv → ScriptCont → Handler) (k : ScriptCont) : Nat → ScriptCont
  | 0, env => k env
  | n + 1, env => if c env then body env (loopHandler c body k n) else k env

/-- The handler a script stands for, followed by `k`, on a frame of length `len`. -/
def scriptHandler (len : Nat) : Script → ScriptEnv → ScriptCont → Handler
  | .done, env, k => k env
  | .call p a b, env, k =>
    .call (invocation (evalExpr len env a) (evalExpr len env b) p)
      (fun v => k { env with results := resultInt v :: env.results })
  | .assign x e, env, k => k { env with vars := assignVar env.vars x (evalExpr len env e) }
  | .seq first second, env, k => scriptHandler len first env (fun env' => scriptHandler len second env' k)
  | .cond c t e, env, k => if evalExpr len env c ≠ 0 then scriptHandler len t env k else scriptHandler len e env k
  | .loop bound c body, env, k =>
    loopHandler (fun env' => decide (evalExpr len env' c ≠ 0)) (scriptHandler len body) k (evalExpr len env bound).toNat env

/-- The handler a description stands for, on the frame it is given. -/
def handlerOf (f : Frame) : HandlerDesc → Handler
  | .script body => scriptHandler f.length body { results := [], vars := [] } (fun _ => .done)
  | .free n => Config.freeHandler n f

/-- `OPTAB(b)` as it is described: never defined at `FLAG_ID` (44_fetch_execute R121, 30_encoding R68). -/
def opcodeEntry? (p : Params) (b : Byte) : Option HandlerDesc :=
  if b = p.flagId then none else p.optab.lookup b

/-- The opcode table the parameters describe. -/
def opTable (p : Params) : OpTable := fun b => (opcodeEntry? p b).map (fun d f => handlerOf f d)

end Sys2Proof.Machine
end

