-- ==== Sys2Proof/Machine/ControlPrims.lean ====
section
/-! DEFINITION. The control primitives: LOOKUP (40_flag_table), SETIP, GETIP, JMPFLAG, SETHALT, OPERAND (44_fetch_execute). -/

namespace Sys2Proof.Machine

/-- LOOKUP (40_flag_table R83): it never faults. -/
def execLookup (label : Byte) (s : State) : Out :=
  inCycle s <| .next { s with ret := .entry (s.flag.lookup label) }

/-- SETIP (44_fetch_execute R123). -/
def execSetip (target : Nat) (s : State) : Out :=
  inCycle s <| .next <|
    if target ≥ s.program.length then s.raise .ipSet else { s.jump target with ret := .unit }

/-- GETIP (44_fetch_execute R124). -/
def execGetip (s : State) : Out :=
  inCycle s <| .next { s with ret := .num s.ip }

/-- JMPFLAG (44_fetch_execute R126). -/
def execJmpflag (label : Byte) (s : State) : Out :=
  inCycle s <| .next <|
    match s.flag.lookup label with
    | none => s.raise .ipNoFlag
    | some k => { s.jump k with ret := .unit }

/-- SETHALT (44_fetch_execute R127): the signal is examined at the end of the handler only. -/
def execSethalt (value : HaltWord) (s : State) : Out :=
  inCycle s <| .next { s with halt := value, ret := .unit }

/-- OPERAND (44_fetch_execute R128): the frame fetched at the start of the cycle, also after a SETIP. -/
def execOperand (j : Nat) (s : State) : Out :=
  inCycle s <| .next <|
    match s.operand? j with
    | none => s.raise .shortFrame
    | some b => { s with ret := .byte b }

end Sys2Proof.Machine
end

