-- ==== Sys2Proof/Machine/HeapPrims.lean ====
section
/-! DEFINITION. The heap controller: HEAPRD, HEAPWR (42_heap). -/

namespace Sys2Proof.Machine

/-- HEAPRD (42_heap R100). -/
def execHeaprd (addr : Int) (s : State) : Out :=
  inCycle s <| .next <| s.unless (s.heapTest addr) { s with ret := .byte (s.heapAt addr.toNat) }

/-- HEAPWR (42_heap R101). -/
def execHeapwr (addr : Int) (value : Byte) (s : State) : Out :=
  inCycle s <| .next <| s.unless (s.heapTest addr) { s with heap := s.heap.write addr.toNat value, ret := .unit }

end Sys2Proof.Machine
end

