-- ==== Sys2Proof/Machine/RegPrims.lean ====
section
/-! DEFINITION. The register bank: SETREG, GETREG (43_registers). -/

namespace Sys2Proof.Machine

/-- SETREG (43_registers R105): the index is tested before the value (60_exceptions R147). -/
def execSetreg (index : RegIndex) (value : Nat) (s : State) : Out :=
  inCycle s <| .next <|
    match register? index with
    | none => s.raise .regIndexWrite
    | some i => if value ≥ 2 ^ s.cfg.archBits then s.raise .regOverflow else { s.setReg i value with ret := .unit }

/-- GETREG (43_registers R106). -/
def execGetreg (index : RegIndex) (s : State) : Out :=
  inCycle s <| .next <|
    match register? index with
    | none => s.raise .regIndexRead
    | some i => { s with ret := .num (s.getReg i) }

end Sys2Proof.Machine
end

