-- ==== Sys2Proof/Machine/StackPrims.lean ====
section
/-! DEFINITION. The stack controller: PUSH, POP, SETSP, GETSP (41_stack). -/

namespace Sys2Proof.Machine

/-- PUSH (41_stack R90): bounded by `STACK_SIZE`, never by `HEAP_SIZE` (20_memory R42). -/
def execPush (value : Byte) (s : State) : Out :=
  inCycle s <| .next <|
    if s.sp + 1 ≥ s.cfg.stackSize then s.raise .stackOverflow
    else { s with sp := s.sp + 1, stack := s.stack.write (s.sp + 1) value, ret := .unit }

/-- POP (41_stack R91); the cell keeps its byte. A cell that does not exist cannot be read (log 12). -/
def execPop (s : State) : Out :=
  inCycle s <|
    if s.sp = 0 then .next (s.raise .stackUnderflow)
    else if s.sp < s.cfg.stackSize then .next { s with sp := s.sp - 1, ret := .byte (s.stackAt s.sp) }
    else .fault .stackCellAbsent

/-- SETSP (41_stack R92). -/
def execSetsp (value : Int) (s : State) : Out :=
  inCycle s <| .next <| s.unless (s.spTest value) { s with sp := value.toNat, ret := .unit }

/-- GETSP (41_stack R93). -/
def execGetsp (s : State) : Out :=
  inCycle s <| .next { s with ret := .num s.sp }

end Sys2Proof.Machine
end

