-- ==== Sys2Proof/Machine/Internal.lean ====
section
/-! DEFINITION. The internal steps (REBUILD, ENTER, DISPATCH, FINISH, ADVANCE, RESULT, CYCLE), the performing of a handler, and
the three frame classes (40_flag_table, 44_fetch_execute). -/

namespace Sys2Proof.Machine

/-! ### Performing a handler (44_fetch_execute R121) -/

/-- One primitive invocation: the meaning of that primitive's instruction. -/
def perform (p : Prim) (s : State) : Out :=
  match p with
  | .push v => execPush v s
  | .pop => execPop s
  | .setsp v => execSetsp v s
  | .getsp => execGetsp s
  | .heaprd a => execHeaprd a s
  | .heapwr a v => execHeapwr a v s
  | .setreg i v => execSetreg i v s
  | .getreg i => execGetreg i s
  | .lookup l => execLookup l s
  | .setip k => execSetip k s
  | .getip => execGetip s
  | .jmpflag l => execJmpflag l s
  | .sethalt v => execSethalt v s
  | .operand j => execOperand j s

/-- The instruction a primitive invocation is. -/
def instrOf : Prim → Instr
  | .push v => .push v
  | .pop => .pop
  | .setsp v => .setsp v
  | .getsp => .getsp
  | .heaprd a => .heaprd a
  | .heapwr a v => .heapwr a v
  | .setreg i v => .setreg i v
  | .getreg i => .getreg i
  | .lookup l => .lookup l
  | .setip k => .setip k
  | .getip => .getip
  | .jmpflag l => .jmpflag l
  | .sethalt v => .sethalt v
  | .operand j => .operand j

/-- A handler's primitives in order; when one raises, the handler is abandoned and the earlier effects stay (R121 clause 5). -/
def runHandler : Handler → State → Out
  | .done, s => .next s
  | .call p next, s => whileRunning (fun t => runHandler (next t.ret) t) (perform p s)

/-! ### The internal steps -/

/-- REBUILD (40_flag_table R80): inside ATTACH and on entering Running only (R87). -/
def execRebuild (s : State) : Out :=
  match s.fsm with
  | .ready | .running => .next s.rebuild
  | _ => .refused .outsideCommand

/-- ENTER (44_fetch_execute R111): inside RUN and RUNP, which are admitted in `Ready`. -/
def execEnter (s : State) : Out :=
  match s.fsm with
  | .ready => .next s.enter
  | _ => .refused .outsideCommand

/-- ADVANCE (44_fetch_execute R118). -/
def execAdvance (s : State) : Out := inCycle s (.next s.advance)

/-- FINISH (44_fetch_execute R117). -/
def execFinish (s : State) : Out := inCycle s (.next s.finish)

/-- RESULT (44_fetch_execute R129): it has a value only when the run has ended. -/
def execResult (s : State) : Out :=
  match s.result? with
  | some r => .next { s with reply := r }
  | none => .refused .noResult

/-- DISPATCH (44_fetch_execute R116) of the frame fetched in this cycle, under any opcode table (00_scope R4: `OPTAB` is an
argument). `FLAG_ID` is never an opcode, whatever the table (30_encoding R68). -/
def dispatchUnder (table : OpTable) (s : State) : Out :=
  inCycle s <|
    match s.frame with
    | [] => .refused .noOpcode
    | b :: _ =>
      match if b = s.params.flagId then none else table b with
      | none => .next (s.raise .unknownOpcode)
      | some h => whileRunning execFinish (runHandler (h s.frame) s)

/-- DISPATCH under the table of the parameters. -/
def execDispatch (s : State) : Out := dispatchUnder (opTable s.params) s

/-! ### The frame classes at execution -/

/-- EMPTY (44_fetch_execute R114). -/
def execEmpty (s : State) : Out := inCycle s (.next s.advance)

/-- FLAG (44_fetch_execute R115): neither the label nor the bytes after it are read. -/
def execFlag (_label : Byte) (_extra : List Byte) (s : State) : Out := inCycle s (.next s.advance)

/-- OP (44_fetch_execute R116): DISPATCH of this frame. -/
def execOp (opcode : Byte) (operands : List Byte) (s : State) : Out :=
  execDispatch { s with frame := opcode :: operands }

/-- What a cycle does with a fetched frame, by its class (44_fetch_execute R113). A flag frame is skipped whatever
follows its first byte: a malformed one has faulted in the rebuild and is never met here (R115; log 13). -/
def runFrameUnder (table : OpTable) (f : Frame) (s : State) : Out :=
  match classify s.params.flagId f with
  | .empty => execEmpty s
  | .flag => execFlag (f.getD 1 0) (f.drop 2) s
  | .op => dispatchUnder table { s with frame := f }

/-- The same under the table of the parameters. -/
def runFrame (f : Frame) (s : State) : Out := runFrameUnder (opTable s.params) f s

/-- CYCLE (44_fetch_execute R113) under any opcode table. -/
def cycleUnder (table : OpTable) (s : State) : Out :=
  inCycle s <|
    match s.fetch? with
    | none => .fault .noFrameAtIp
    | some f => mapNext State.endCycle (runFrameUnder table f (s.beginCycle f))

/-- CYCLE under the table of the parameters. -/
def execCycle (s : State) : Out := cycleUnder (opTable s.params) s

end Sys2Proof.Machine
end

