-- ==== Sys2Proof/Machine/Dispatch.lean ====
section
/-! DEFINITION. One arm per constructor of Instr. -/

namespace Sys2Proof.Machine

def exec (i : Instr) (s : State) : Host.Outcome State Fault Refusal :=
  match i with
  | .empty => Sys2Proof.Machine.execEmpty s
  | .flag label extra => Sys2Proof.Machine.execFlag label extra s
  | .op opcode operands => Sys2Proof.Machine.execOp opcode operands s
  | .init archBits heapSize stackSize => Sys2Proof.Machine.execInitialize archBits heapSize stackSize s
  | .attach program => Sys2Proof.Machine.execAttach program s
  | .run => Sys2Proof.Machine.execRun s
  | .runp program => Sys2Proof.Machine.execRunp program s
  | .snapshot => Sys2Proof.Machine.execSnapshot s
  | .rebuild => Sys2Proof.Machine.execRebuild s
  | .enter => Sys2Proof.Machine.execEnter s
  | .cycle => Sys2Proof.Machine.execCycle s
  | .dispatch => Sys2Proof.Machine.execDispatch s
  | .finish => Sys2Proof.Machine.execFinish s
  | .advance => Sys2Proof.Machine.execAdvance s
  | .result => Sys2Proof.Machine.execResult s
  | .push value => Sys2Proof.Machine.execPush value s
  | .pop => Sys2Proof.Machine.execPop s
  | .setsp value => Sys2Proof.Machine.execSetsp value s
  | .getsp => Sys2Proof.Machine.execGetsp s
  | .heaprd addr => Sys2Proof.Machine.execHeaprd addr s
  | .heapwr addr value => Sys2Proof.Machine.execHeapwr addr value s
  | .setreg index value => Sys2Proof.Machine.execSetreg index value s
  | .getreg index => Sys2Proof.Machine.execGetreg index s
  | .lookup label => Sys2Proof.Machine.execLookup label s
  | .setip target => Sys2Proof.Machine.execSetip target s
  | .getip => Sys2Proof.Machine.execGetip s
  | .jmpflag label => Sys2Proof.Machine.execJmpflag label s
  | .sethalt value => Sys2Proof.Machine.execSethalt value s
  | .operand j => Sys2Proof.Machine.execOperand j s

end Sys2Proof.Machine
end

