-- ==== Sys2Proof/Machine/Step.lean ====
section
/-! DEFINITION. One step: while Running, one cycle on the frame at `ip`; otherwise the next command of the host. -/

namespace Sys2Proof.Machine

/-- While `fsm = Running`: fetch, decode, execute, count, and when the run has ended RESULT is returned to the host
(44_fetch_execute R110, R113, R120). A frame the decoder rejects is a malformed flag frame: it is skipped as its class
says (log 13). Otherwise the host's next command is performed, and without one the state stays as it is (log 6). -/
def step (s : State) : Host.Outcome State Fault Refusal :=
  match s.fsm with
  | .running =>
    match s.fetch? with
    | none => .fault .noFrameAtIp
    | some f =>
      mapNext (fun t => t.endCycle.deliver t.reply)
        (match decodeFrame s.params.flagId f with
        | .ok i => exec i (s.beginCycle f)
        | .error _ => runFrame f (s.beginCycle f))
  | _ =>
    match s.inbox with
    | [] => .next s
    | c :: rest => exec (commandInstr c) { s with inbox := rest }

/-- `s` about to run the frame of the opcode table's word `w` as its next cycle: the frame stands at index 0 of a two-frame
program whose second frame is empty, the run state is `Running`, and the flag table is that program's (log 10, 11). -/
def State.withFetchWord (s : State) (nbits w : Nat) : State :=
  let p : Program := [frameOfWord s.params.flagId nbits w, []]
  { s with fsm := .running, ip := 0, program := p, flag := (scanFlags s.params.flagId p 0 FlagTable.clear).1 }

end Sys2Proof.Machine
end

