-- ==== Sys2Proof/Safety.lean ====
section
/-! DEFINITION. The terms claims are stated in: the invariants of 10_state R27, what a program declares, and sequences of
operations. -/

namespace Sys2Proof.Machine

/-- The fourteen handler primitives (44_fetch_execute R121 clause 1). -/
def isPrimitive : Instr → Bool
  | .push _ | .pop | .setsp _ | .getsp | .heaprd _ | .heapwr _ _ | .setreg _ _ | .getreg _ | .lookup _ | .setip _ | .getip
  | .jmpflag _ | .sethalt _ | .operand _ => true
  | .empty | .flag _ _ | .op _ _ | .init _ _ _ | .attach _ | .run | .runp _ | .snapshot | .rebuild | .enter | .cycle
  | .dispatch | .finish | .advance | .result => false

/-- The five host commands (60_exceptions R149). -/
def isHostCommand : Instr → Bool
  | .init _ _ _ | .attach _ | .run | .runp _ | .snapshot => true
  | .push _ | .pop | .setsp _ | .getsp | .heaprd _ | .heapwr _ _ | .setreg _ _ | .getreg _ | .lookup _ | .setip _ | .getip
  | .jmpflag _ | .sethalt _ | .operand _ | .empty | .flag _ _ | .op _ _ | .rebuild | .enter | .cycle | .dispatch | .finish
  | .advance | .result => false

/-- The operations that perform a whole handler: OP, DISPATCH and CYCLE (44_fetch_execute R113, R116). -/
def performsHandler : Instr → Bool
  | .op _ _ | .dispatch | .cycle => true
  | .push _ | .pop | .setsp _ | .getsp | .heaprd _ | .heapwr _ _ | .setreg _ _ | .getreg _ | .lookup _ | .setip _ | .getip
  | .jmpflag _ | .sethalt _ | .operand _ | .empty | .flag _ _ | .init _ _ _ | .attach _ | .run | .runp _ | .snapshot
  | .rebuild | .enter | .finish | .advance | .result => false

/-- The state after `raise K(m)` in `s` (60_exceptions R144), written out. -/
def raised (s : State) (kind : FaultKind) (msg : MsgId) : State :=
  { s with fault := { kind := kind, msg := msg, status := s.params.faultStatus }, fsm := .faulted }

/-- The frame declares the label: byte 0 is `FLAG_ID` and byte 1 the label (30_encoding R64). -/
def Declares (flagId label : Byte) (f : Frame) : Prop := f[0]? = some flagId ∧ f[1]? = some label

/-- A flag frame that carries no label of its own (40_flag_table R81): length 1, or the label byte is `FLAG_ID`. -/
def Malformed (flagId : Byte) (f : Frame) : Prop := f[0]? = some flagId ∧ (f[1]? = none ∨ f[1]? = some flagId)

/-- No frame of the program is a malformed flag frame. -/
def FlagsWellFormed (flagId : Byte) (p : Program) : Prop := ∀ f ∈ p, ¬ Malformed flagId f

/-- `f`, at index `k`, is the first malformed flag frame of the program, where the scan stops (40_flag_table R80). -/
def FirstMalformed (flagId : Byte) (p : Program) (k : Nat) (f : Frame) : Prop :=
  p[k]? = some f ∧ Malformed flagId f ∧ FlagsWellFormed flagId (p.take k)

/-- The message of the rebuild's fault at a malformed flag frame (40_flag_table R80): the length is tested before the label
byte. -/
def malformedMsg (f : Frame) : MsgId := if f.length = 1 then .flagNoLabel else .flagAdjacent

/-- `e` is what the table must hold for the label: the greatest index that declares it, `none` where nothing does
(40_flag_table R82). -/
def LastDeclaration (flagId label : Byte) (p : Program) : Option Nat → Prop
  | none => ∀ (k : Nat) (f : Frame), p[k]? = some f → ¬ Declares flagId label f
  | some k =>
    (∃ f : Frame, p[k]? = some f ∧ Declares flagId label f) ∧
      ∀ (j : Nat) (f : Frame), k < j → p[j]? = some f → ¬ Declares flagId label f

/-- Every entry of the table is the index of a frame that declares its label (10_state R22). -/
def FlagEntriesValid (flagId : Byte) (p : Program) (t : FlagTable) : Prop :=
  ∀ l k, t.lookup l = some k → ∃ f : Frame, p[k]? = some f ∧ Declares flagId l f

/-- The table holds the last declaration of every label (10_state R22, 40_flag_table R82). -/
def TableOf (flagId : Byte) (p : Program) (t : FlagTable) : Prop :=
  ∀ l, LastDeclaration flagId l p (t.lookup l)

/-- The invariants of an initialized instance (10_state R27), with the facts they rest on. -/
structure Initialized (s : State) : Prop where
  /-- R27 item 1 -/
  sp_lt : s.sp < s.cfg.stackSize
  /-- R27 item 2 -/
  regs_lt : ∀ i : Fin 4, s.getReg i < 2 ^ s.cfg.archBits
  /-- R27 item 3 -/
  ip_running : s.fsm = .running → s.ip < s.program.length
  /-- R27 item 3 -/
  ip_any : s.ip = 0 ∨ s.ip < s.program.length
  /-- R27 item 4 -/
  halt_zero : s.fsm = .ready ∨ s.fsm = .running → s.halt = 0
  /-- R27 item 4 -/
  halt_nonzero : s.fsm = .halted → s.halt ≠ 0
  /-- R27 item 5, R18 -/
  fault_clear : s.fsm ≠ .faulted → s.fault = FaultRecord.clear
  /-- R27 item 5, R18 -/
  fault_set : s.fsm = .faulted → ∃ m, m ≠ MsgId.none ∧ s.fault = { kind := m.kind, msg := m, status := s.params.faultStatus }
  /-- R27 item 6, R22 -/
  flag_valid : FlagEntriesValid s.params.flagId s.program s.flag
  /-- R27 item 6, R22: the last rebuild ended without a fault -/
  flag_last : s.fsm = .ready ∨ s.fsm = .running ∨ s.fsm = .halted → TableOf s.params.flagId s.program s.flag
  /-- a malformed flag frame is never met by a cycle (44_fetch_execute R115) -/
  flags_well_formed : s.fsm = .ready ∨ s.fsm = .running ∨ s.fsm = .halted → FlagsWellFormed s.params.flagId s.program
  /-- 70_reset R171 -/
  arch_pos : 1 ≤ s.cfg.archBits
  /-- R27 item 8: every stack cell written is a cell of the stack, and cell 0 is never written (10_state R23) -/
  stack_cells : ∀ a, (s.stack.get? a).isSome → 1 ≤ a ∧ a < s.cfg.stackSize
  /-- R27 item 8: every heap cell written is a cell of the heap -/
  heap_cells : ∀ a, (s.heap.get? a).isSome → a < s.cfg.heapSize
  /-- 30_encoding R61 -/
  program_fits : s.program.length < Config.programLimit
  /-- 41_stack R95: before a run the stack pointer is 0 -/
  sp_ready : s.fsm = .ready → s.sp = 0

/-- The invariant of the machine: the parameters are legal (00_scope R4), the memories are in canonical form (log 3), and the
instance is `Off` or keeps the invariants of 10_state R27. -/
def State.Inv (s : State) : Prop :=
  s.params.legal ∧ s.stack.wf = true ∧ s.heap.wf = true ∧ (s.fsm = .off ∨ Initialized s)

/-- Operations performed one after the other, with what each leaves on the result port; none as soon as one of them does not
answer a running state. -/
def performAll : List Instr → State → Option (State × List Value)
  | [], s => some (s, [])
  | i :: is, s =>
    match exec i s with
    | .next t =>
      if t.fsm = .running then (performAll is t).map (fun r => (r.1, t.ret :: r.2)) else none
    | .fault _ => none
    | .refused _ => none

end Sys2Proof.Machine
end

