-- ==== Sys2Proof/Certificates/Slice0/Obligations.lean ====
section
/-! DEFINITION. The statements for the provers. `raised s k m` is the state after a fault written out (Safety.lean); an
existential `v : Value` is the model's own result port (log 5), left open where the rule returns nothing. -/

open Sys2Proof Sys2Proof.Machine

/-! ### Reset and the host commands -/

/-- 70_reset R170, 10_state R10: what reset leaves. The cells of both memories are the draw, whatever it is. The values of
`params` are the parameter values of 00_scope R4 (`FAULT_STATUS`: log 4); the model's own fields are the choices of log 3, 5, 6
and 15. -/
def Obligations.ResetLeavesInitializedState : Prop :=
  (∀ i : Fin 4, State.reset.getReg i = 0) ∧ State.reset.ip = 0 ∧ State.reset.sp = 0 ∧ State.reset.cycles = 0 ∧
  State.reset.halt = 0 ∧ State.reset.fsm = .ready ∧
  State.reset.fault = { kind := .none, msg := .none, status := 0 } ∧ State.reset.ipWritten = false ∧
  State.reset.cfg = { archBits := 32, heapSize := 256, stackSize := 256 } ∧ State.reset.program = [] ∧
  (∀ l, State.reset.flag.lookup l = none) ∧
  (∀ a, State.reset.stackAt a = Config.memInit .stack State.reset.draw a) ∧
  (∀ a, State.reset.heapAt a = Config.memInit .heap State.reset.draw a) ∧
  State.reset.params = { flagId := 0xFF, optab := [], faultStatus := Config.faultStatus } ∧ State.reset.params.legal

/-- 70_reset R170 with R171 (decisions D4, D5, D9): a legal INITIALIZE in any state but Running. The new draw number and the
kept `params` and `inbox` are the model's (log 1, 3, 6). -/
def Obligations.InitializeResetsEverything : Prop :=
  ∀ (s : State) (a h k : Int), s.fsm ≠ .running → a ≥ 1 → h ≥ 0 → k ≥ 1 →
    ∃ t, exec (.init a h k) s = .next t ∧
      (t.cfg.archBits : Int) = a ∧ (t.cfg.heapSize : Int) = h ∧ (t.cfg.stackSize : Int) = k ∧
      (∀ i : Fin 4, t.getReg i = 0) ∧ t.ip = 0 ∧ t.sp = 0 ∧ t.cycles = 0 ∧ t.halt = 0 ∧ t.ipWritten = false ∧
      t.fault = { kind := .none, msg := .none, status := 0 } ∧ t.program = [] ∧ (∀ l, t.flag.lookup l = none) ∧
      (∀ x, t.stackAt x = Config.memInit .stack (s.draw + 1) x) ∧
      (∀ x, t.heapAt x = Config.memInit .heap (s.draw + 1) x) ∧
      t.fsm = .ready ∧ t.params = s.params ∧ t.inbox = s.inbox

/-- 70_reset R171, R176 (decisions D3, D5): the refused INITIALIZE. -/
def Obligations.InitializeRefusedChangesNothing : Prop :=
  ∀ (s : State) (a h k : Int), (s.fsm = .running ∨ a < 1 ∨ h < 0 ∨ k < 1) →
    exec (.init a h k) s = .next { s with reply := .refused }

/-- 70_reset R170: "nothing of an earlier run survives". Two instances with the same parameters (log 1), the same number of
draws (log 3) and the same further commands (log 6) are the same after INITIALIZE. -/
def Obligations.InitializeForgetsEarlierRun : Prop :=
  ∀ (s s' : State) (a h k : Int), s.fsm ≠ .running → s'.fsm ≠ .running → a ≥ 1 → h ≥ 0 → k ≥ 1 →
    s.params = s'.params → s.draw = s'.draw → s.inbox = s'.inbox →
    ∃ t, exec (.init a h k) s = .next t ∧ exec (.init a h k) s' = .next t

/-- 40_flag_table R80, R84, R85 (admission: decision D3; malformed flag frames: D13; the table then: D14): ATTACH of a program
whose flag frames all carry a label, and of one whose first malformed flag frame stands at index `k`. -/
def Obligations.AttachBuildsTable : Prop :=
  ∀ (s : State) (p : Program), s.fsm = .ready → p.length < 2 ^ 32 →
    (FlagsWellFormed s.params.flagId p →
      ∃ t, exec (.attach p) s = .next t ∧ t = { s with program := p, ip := 0, flag := t.flag, reply := t.reply } ∧
        TableOf s.params.flagId p t.flag) ∧
    (∀ k f, FirstMalformed s.params.flagId p k f →
      ∃ t, exec (.attach p) s = .next t ∧ TableOf s.params.flagId (p.take k) t.flag ∧
        t = raised { s with program := p, ip := 0, flag := t.flag, reply := .fault t.fault } .malformedProgram (malformedMsg f))

/-- 44_fetch_execute R110, R111, 40_flag_table R80 (malformed flag frames: decision D13; the table then: D14): RUN of a
non-empty program. The loop's cycles are the steps that follow (log 7). -/
def Obligations.RunEntersRunning : Prop :=
  ∀ s : State, s.fsm = .ready → s.program ≠ [] →
    (FlagsWellFormed s.params.flagId s.program →
      ∃ t, exec .run s = .next t ∧
        t = { s with fsm := .running, sp := 0, ip := 0, flag := t.flag, reply := t.reply } ∧
        TableOf s.params.flagId s.program t.flag) ∧
    (∀ k f, FirstMalformed s.params.flagId s.program k f →
      ∃ t, exec .run s = .next t ∧ TableOf s.params.flagId (s.program.take k) t.flag ∧
        t = raised { s with sp := 0, ip := 0, flag := t.flag, reply := .fault t.fault } .malformedProgram (malformedMsg f))

/-- 44_fetch_execute R110, R112 (decision D31): an empty program faults before any state mutation. -/
def Obligations.EmptyProgramFaultsBeforeMutation : Prop :=
  (∀ s : State, s.fsm = .ready → s.program = [] →
    ∃ r, exec .run s = .next { raised s .emptyProgram .emptyProgram with reply := r }) ∧
  (∀ s : State, s.fsm = .ready →
    ∃ r, exec (.runp []) s = .next { raised s .emptyProgram .emptyProgram with reply := r })

/-- 44_fetch_execute R112, R111, 40_flag_table R80 (malformed flag frames: decision D13; the table then: D14): RUNP of a
non-empty program. -/
def Obligations.RunpEntersRunning : Prop :=
  ∀ (s : State) (p : Program), s.fsm = .ready → p ≠ [] → p.length < 2 ^ 32 →
    (FlagsWellFormed s.params.flagId p →
      ∃ t, exec (.runp p) s = .next t ∧
        t = { s with program := p, fsm := .running, sp := 0, ip := 0, flag := t.flag, reply := t.reply } ∧
        TableOf s.params.flagId p t.flag) ∧
    (∀ k f, FirstMalformed s.params.flagId p k f →
      ∃ t, exec (.runp p) s = .next t ∧ TableOf s.params.flagId (p.take k) t.flag ∧
        t = raised { s with program := p, sp := 0, ip := 0, flag := t.flag, reply := .fault t.fault } .malformedProgram
          (malformedMsg f))

/-- 70_reset R177 (decision D24): SNAPSHOT in every state but Off, read-only. -/
def Obligations.SnapshotShowsSurface : Prop :=
  ∀ s : State, s.fsm ≠ .off →
    ∃ r : Snapshot, exec .snapshot s = .next { s with reply := .snapshot r } ∧
      r.regs = s.regs ∧ r.sp = s.sp ∧ r.ip = s.ip ∧ r.cycles = s.cycles ∧ r.flag = s.flag ∧ r.fsm = s.fsm ∧
      r.halt = s.halt ∧ r.fault = s.fault

/-- 70_reset R176 (decisions D3, D26): the commands that are not admitted change nothing; the host is told (log 8). -/
def Obligations.CommandsRefusedOutsideTheirStates : Prop :=
  (∀ s : State, s.fsm ≠ .ready → exec .run s = .next { s with reply := .refused }) ∧
  (∀ (s : State) (p : Program), (s.fsm ≠ .ready ∨ 2 ^ 32 ≤ p.length) →
    exec (.attach p) s = .next { s with reply := .refused } ∧ exec (.runp p) s = .next { s with reply := .refused }) ∧
  (∀ s : State, s.fsm = .off → exec .snapshot s = .next { s with reply := .refused })

/-- 60_exceptions R149: a host command but INITIALIZE reaches no register, memory, counter, halt signal or parameter. -/
def Obligations.HostReachesNoHandlerState : Prop :=
  ∀ (i : Instr) (s t : State), isHostCommand i → (∀ a h k, i ≠ .init a h k) → exec i s = .next t →
    t.regs = s.regs ∧ t.cycles = s.cycles ∧ t.halt = s.halt ∧ t.cfg = s.cfg ∧ t.stack = s.stack ∧ t.heap = s.heap ∧
    t.params = s.params ∧ t.ipWritten = s.ipWritten ∧ t.draw = s.draw ∧ t.frame = s.frame ∧ t.ret = s.ret ∧
    t.inbox = s.inbox

/-! ### The internal steps -/

/-- 40_flag_table R80, R82, R85 (malformed flag frames: decision D13; the table then: D14): the scan over a program whose flag
frames all carry a label, and over one whose first malformed flag frame stands at index `k`; every program is one or the
other. -/
def Obligations.RebuildScansInOrder : Prop :=
  (∀ s : State, (s.fsm = .ready ∨ s.fsm = .running) → FlagsWellFormed s.params.flagId s.program →
    ∃ t, exec .rebuild s = .next t ∧ t = { s with flag := t.flag } ∧ TableOf s.params.flagId s.program t.flag) ∧
  (∀ (s : State) (k : Nat) (f : Frame), (s.fsm = .ready ∨ s.fsm = .running) →
    FirstMalformed s.params.flagId s.program k f →
    ∃ t, exec .rebuild s = .next t ∧ TableOf s.params.flagId (s.program.take k) t.flag ∧
      t = raised { s with flag := t.flag } .malformedProgram (if f.length = 1 then .flagNoLabel else .flagAdjacent)) ∧
  (∀ (flagId : Byte) (p : Program), ¬ FlagsWellFormed flagId p → ∃ k f, FirstMalformed flagId p k f)

/-- 44_fetch_execute R111, 40_flag_table R80 (malformed flag frames: decision D13; the table then: D14): ENTER resets the two
pointers and rebuilds the table, and changes nothing else. -/
def Obligations.EnterResetsPointers : Prop :=
  ∀ s : State, s.fsm = .ready →
    (FlagsWellFormed s.params.flagId s.program →
      ∃ t, exec .enter s = .next t ∧ t = { s with fsm := .running, sp := 0, ip := 0, flag := t.flag } ∧
        TableOf s.params.flagId s.program t.flag) ∧
    (∀ k f, FirstMalformed s.params.flagId s.program k f →
      ∃ t, exec .enter s = .next t ∧ TableOf s.params.flagId (s.program.take k) t.flag ∧
        t = raised { s with sp := 0, ip := 0, flag := t.flag } .malformedProgram (malformedMsg f))

/-- 44_fetch_execute R113: one cycle. The frame at `ip` is fetched and the latch cleared; an empty or flag frame advances, any
other is dispatched; the cycle is counted when it ends in a running state (a halting one is counted by FINISH, a faulting
one not at all). `frame` is where the model holds the fetched frame (log 15). -/
def Obligations.CycleFetchesClassifiesExecutes : Prop :=
  ∀ (s : State) (f : Frame), s.fsm = .running → s.program[s.ip]? = some f →
    ((f = [] ∨ f.head? = some s.params.flagId) → s.ip + 1 < s.program.length →
      exec .cycle s = .next { s with frame := f, ipWritten := false, ip := s.ip + 1, cycles := s.cycles + 1 }) ∧
    ((f = [] ∨ f.head? = some s.params.flagId) → s.program.length ≤ s.ip + 1 →
      exec .cycle s = .next (raised { s with frame := f, ipWritten := false } .invalidInstructionPointer .ipAdvance)) ∧
    (∀ b r, f = b :: r → b ≠ s.params.flagId → ∀ t,
      exec (.op b r) { s with frame := f, ipWritten := false } = .next t →
      exec .cycle s = .next (if t.fsm = .running then { t with cycles := t.cycles + 1 } else t))

/-- 44_fetch_execute R117 (decision D15): the halt test, then the conditional advance. -/
def Obligations.FinishHaltsOrAdvances : Prop :=
  ∀ s : State, s.fsm = .running →
    (s.halt ≠ 0 → exec .finish s = .next { s with cycles := s.cycles + 1, fsm := .halted }) ∧
    (s.halt = 0 → s.ipWritten = true → exec .finish s = .next s) ∧
    (s.halt = 0 → s.ipWritten = false → s.ip + 1 < s.program.length → exec .finish s = .next { s with ip := s.ip + 1 }) ∧
    (s.halt = 0 → s.ipWritten = false → s.program.length ≤ s.ip + 1 →
      exec .finish s = .next (raised s .invalidInstructionPointer .ipAdvance))

/-- 44_fetch_execute R118 (decision D16): the checked increment; an out-of-range value is not stored. -/
def Obligations.AdvanceIsChecked : Prop :=
  ∀ s : State, s.fsm = .running →
    (s.ip + 1 < s.program.length → exec .advance s = .next { s with ip := s.ip + 1 }) ∧
    (s.program.length ≤ s.ip + 1 → exec .advance s = .next (raised s .invalidInstructionPointer .ipAdvance))

/-- 44_fetch_execute R129: RESULT, told apart by the tag. -/
def Obligations.ResultReportsEndOfRun : Prop :=
  (∀ s : State, s.fsm = .halted → exec .result s = .next { s with reply := .ok s.halt }) ∧
  (∀ s : State, s.fsm = .faulted → exec .result s = .next { s with reply := .fault s.fault })

/-! ### The frame classes -/

/-- 44_fetch_execute R114: an empty frame, by itself and as a whole cycle. -/
def Obligations.EmptyFrameAdvances : Prop :=
  (∀ s : State, s.fsm = .running → s.ip + 1 < s.program.length → exec .empty s = .next { s with ip := s.ip + 1 }) ∧
  (∀ s : State, s.fsm = .running → s.program.length ≤ s.ip + 1 →
    exec .empty s = .next (raised s .invalidInstructionPointer .ipAdvance)) ∧
  (∀ s : State, s.fsm = .running → s.program[s.ip]? = some [] → s.ip + 1 < s.program.length →
    step s = .next { s with frame := [], ipWritten := false, ip := s.ip + 1, cycles := s.cycles + 1 }) ∧
  (∀ s : State, s.fsm = .running → s.program[s.ip]? = some [] → s.program.length ≤ s.ip + 1 →
    ∃ r, step s = .next
      { raised { s with frame := [], ipWritten := false } .invalidInstructionPointer .ipAdvance with reply := r })

/-- 44_fetch_execute R115: a flag frame is skipped without side effects, by itself and as a whole cycle. -/
def Obligations.FlagFrameSkipped : Prop :=
  ∀ (s : State) (l : Byte) (x : List Byte), s.fsm = .running →
    (s.ip + 1 < s.program.length → exec (.flag l x) s = .next { s with ip := s.ip + 1 }) ∧
    (s.program.length ≤ s.ip + 1 → exec (.flag l x) s = .next (raised s .invalidInstructionPointer .ipAdvance)) ∧
    (s.program[s.ip]? = some (s.params.flagId :: l :: x) → s.ip + 1 < s.program.length →
      step s = .next
        { s with frame := s.params.flagId :: l :: x, ipWritten := false, ip := s.ip + 1, cycles := s.cycles + 1 }) ∧
    (s.program[s.ip]? = some (s.params.flagId :: l :: x) → s.program.length ≤ s.ip + 1 →
      ∃ r, step s = .next
        { raised { s with frame := s.params.flagId :: l :: x, ipWritten := false } .invalidInstructionPointer .ipAdvance with
          reply := r })

/-- 44_fetch_execute R116, 00_scope R4: a dispatch miss; the handler and then FINISH; a handler that ended the run ends the
cycle with its earlier effects kept. For any opcode table and any handlers, and for OP and DISPATCH, whose table is the one
`params` describes. -/
def Obligations.OpDispatchesHandler : Prop :=
  ∀ (s : State) (b : Byte) (r : List Byte), s.fsm = .running → s.frame = b :: r →
    exec (.op b r) s = exec .dispatch s ∧ exec .dispatch s = dispatchUnder (opTable s.params) s ∧
    (∀ d, b ≠ s.params.flagId → s.params.optab.lookup b = some d →
      ∃ h, opTable s.params b = some h ∧ ∀ f, h f = handlerOf f d) ∧
    (s.params.optab.lookup b = none → opTable s.params b = none) ∧
    ∀ T : OpTable,
      (b = s.params.flagId ∨ T b = none → dispatchUnder T s = .next (raised s .unknownOpcode .unknownOpcode)) ∧
      (∀ h u, b ≠ s.params.flagId → T b = some h → runHandler (h (b :: r)) s = .next u →
        (u.fsm = .running → dispatchUnder T s = exec .finish u) ∧ (u.fsm ≠ .running → dispatchUnder T s = .next u))

/-- 30_encoding R67, 44_fetch_execute R121: with the empty table every OP frame faults, and `FLAG_ID` is never an opcode,
whatever the table. -/
def Obligations.UnboundOpcodeFaults : Prop :=
  ∀ (s : State) (b : Byte) (r : List Byte), s.fsm = .running → (s.params.optab = [] ∨ b = s.params.flagId) →
    exec (.op b r) s = .next (raised { s with frame := b :: r } .unknownOpcode .unknownOpcode)

/-- 44_fetch_execute R116, R117: an OP frame whose handler performs no primitive (log 2) only advances; one whose handler is
`SETHALT(OPERAND(1))` halts with that operand, without an advance. -/
def Obligations.OpCompletesUnderBoundHandlers : Prop :=
  (∀ (s : State) (b : Byte) (r : List Byte), s.fsm = .running → s.halt = 0 → s.ipWritten = false →
    opcodeEntry? s.params b = some (.script .done) → s.ip + 1 < s.program.length →
    exec (.op b r) s = .next { s with frame := b :: r, ip := s.ip + 1 } ∧
    (s.frame = b :: r → exec .dispatch s = .next { s with ip := s.ip + 1 })) ∧
  (∀ (s : State) (b x : Byte) (r : List Byte), s.fsm = .running → x ≠ 0 →
    opcodeEntry? s.params b =
      some (.script (.seq (.call .operand (.lit 1) (.lit 0)) (.call .sethalt (.result 0) (.lit 0)))) →
    ∃ v, exec (.op b (x :: r)) s = .next
      { s with frame := b :: x :: r, halt := x.setWidth 32, ret := v, cycles := s.cycles + 1, fsm := .halted })

/-- 44_fetch_execute R121 clause 5: the primitives of a handler take effect in order, each as its own instruction, and a
handler is abandoned where one raises. -/
def Obligations.HandlerPerformsInOrder : Prop :=
  (∀ s : State, runHandler .done s = .next s) ∧
  (∀ (p : Prim) (k : Value → Handler) (s t : State), exec (instrOf p) s = .next t →
    (t.fsm = .running → runHandler (.call p k) s = runHandler (k t.ret) t) ∧
    (t.fsm ≠ .running → runHandler (.call p k) s = .next t)) ∧
  (∀ p : Prim, isPrimitive (instrOf p))

/-- 44_fetch_execute R121 clauses 2 and 6: no handler, whatever it is, writes the Program, the flag table, the counter, the
configuration, the parameters or the fetched frame, and it ends the run only by a fault of one of its primitives. -/
def Obligations.HandlerReachesOnlyItsState : Prop :=
  ∀ (h : Handler) (s t : State), runHandler h s = .next t →
    t.program = s.program ∧ t.flag = s.flag ∧ t.cycles = s.cycles ∧ t.cfg = s.cfg ∧ t.params = s.params ∧
    t.frame = s.frame ∧ t.reply = s.reply ∧ t.inbox = s.inbox ∧ t.draw = s.draw ∧
    ((t.fsm = s.fsm ∧ t.fault = s.fault) ∨
      (t.fsm = .faulted ∧ ∃ m, m ≠ MsgId.none ∧ t.fault = { kind := m.kind, msg := m, status := s.params.faultStatus }))

/-! ### The stack -/

/-- 41_stack R90. -/
def Obligations.PushWritesAboveTop : Prop :=
  ∀ (s : State) (v : Byte), s.fsm = .running →
    (s.sp + 1 < s.cfg.stackSize →
      ∃ t, exec (.push v) s = .next t ∧ t = { s with sp := s.sp + 1, stack := t.stack, ret := t.ret } ∧
        t.stackAt (s.sp + 1) = v ∧ ∀ a, a ≠ s.sp + 1 → t.stackAt a = s.stackAt a) ∧
    (s.cfg.stackSize ≤ s.sp + 1 → exec (.push v) s = .next (raised s .stackOverflow .stackOverflow))

/-- 41_stack R91; the returned byte stands on the model's result port (log 5), and the cell keeps its byte. -/
def Obligations.PopReturnsTop : Prop :=
  ∀ s : State, s.fsm = .running →
    (s.sp ≠ 0 → s.sp < s.cfg.stackSize →
      exec .pop s = .next { s with sp := s.sp - 1, ret := .byte (s.stackAt s.sp) }) ∧
    (s.sp = 0 → exec .pop s = .next (raised s .stackUnderflow .stackUnderflow))

/-- 41_stack R92. -/
def Obligations.SetspCommitsInRange : Prop :=
  ∀ (s : State) (v : Int), s.fsm = .running →
    (0 ≤ v → v < s.cfg.stackSize → ∃ r, exec (.setsp v) s = .next { s with sp := v.toNat, ret := r }) ∧
    (v < 0 → exec (.setsp v) s = .next (raised s .segmentationFault .spBelowZero)) ∧
    ((s.cfg.stackSize : Int) ≤ v → exec (.setsp v) s = .next (raised s .segmentationFault .spAboveCapacity))

/-- 41_stack R93, on the model's result port (log 5). -/
def Obligations.GetspReturnsStackPointer : Prop :=
  ∀ s : State, s.fsm = .running → exec .getsp s = .next { s with ret := .num s.sp }

/-- 41_stack R94: (a) with (c) N pushes from the empty stack and N pops, (b) a push and a pop, (d) what changes `sp` in a run. -/
def Obligations.StackIsLastInFirstOut : Prop :=
  (∀ (s : State) (vs : List Byte), s.fsm = .running → s.sp = 0 → vs.length + 1 ≤ s.cfg.stackSize →
    ∃ t u rs, performAll (vs.map .push) s = some (t, rs) ∧ t.sp = vs.length ∧
      (∀ i v, vs[i]? = some v → t.stackAt (i + 1) = v) ∧
      performAll (List.replicate vs.length .pop) t = some (u, vs.reverse.map .byte) ∧ u.sp = 0) ∧
  (∀ (s : State) (v : Byte), s.fsm = .running → s.sp + 1 < s.cfg.stackSize →
    ∃ t u, exec (.push v) s = .next t ∧ exec .pop t = .next u ∧ u.ret = .byte v ∧ u.sp = s.sp) ∧
  (∀ (i : Instr) (s t : State), s.fsm = .running → performsHandler i = false → exec i s = .next t →
    t.sp = s.sp ∨ (∃ v, i = .push v ∧ t.sp = s.sp + 1) ∨ (i = .pop ∧ s.sp = t.sp + 1) ∨
      ∃ v, i = .setsp v ∧ (t.sp : Int) = v)

/-! ### The heap -/

/-- 42_heap R100 (fault kind: decision D10), on the model's result port (log 5). -/
def Obligations.HeapReadInRange : Prop :=
  ∀ (s : State) (a : Int), s.fsm = .running →
    (0 ≤ a → a < s.cfg.heapSize → exec (.heaprd a) s = .next { s with ret := .byte (s.heapAt a.toNat) }) ∧
    (a < 0 → exec (.heaprd a) s = .next (raised s .segmentationFault .heapBelowZero)) ∧
    ((s.cfg.heapSize : Int) ≤ a → exec (.heaprd a) s = .next (raised s .segmentationFault .heapAboveCapacity))

/-- 42_heap R101 (fault kind: decision D10). -/
def Obligations.HeapWriteInRange : Prop :=
  ∀ (s : State) (a : Int) (v : Byte), s.fsm = .running →
    (0 ≤ a → a < s.cfg.heapSize →
      ∃ t, exec (.heapwr a v) s = .next t ∧ t = { s with heap := t.heap, ret := t.ret } ∧
        t.heapAt a.toNat = v ∧ ∀ b, b ≠ a.toNat → t.heapAt b = s.heapAt b) ∧
    (a < 0 → exec (.heapwr a v) s = .next (raised s .segmentationFault .heapBelowZero)) ∧
    ((s.cfg.heapSize : Int) ≤ a → exec (.heapwr a v) s = .next (raised s .segmentationFault .heapAboveCapacity))

/-- 42_heap R102: what HEAPRD returns after a HEAPWR, at the written address and at every other admitted one. -/
def Obligations.HeapReadAfterWrite : Prop :=
  ∀ (s t : State) (a b : Int) (v : Byte), s.fsm = .running → 0 ≤ a → a < s.cfg.heapSize → 0 ≤ b → b < s.cfg.heapSize →
    exec (.heapwr a v) s = .next t →
    ∃ u w, exec (.heaprd b) t = .next u ∧ exec (.heaprd b) s = .next w ∧ u.ret = if b = a then .byte v else w.ret

/-- 20_memory R40, R42, R43: the heap operations neither see nor change the stack, its pointer and its capacity, and the stack
operations neither see nor change the heap and its capacity. -/
def Obligations.StackAndHeapAreSeparate : Prop :=
  (∀ (i : Instr) (s t : State) (st : Memory) (p n : Nat), ((∃ a, i = .heaprd a) ∨ ∃ a v, i = .heapwr a v) →
    exec i s = .next t →
    exec i { s with stack := st, sp := p, cfg := { s.cfg with stackSize := n } } =
      .next { t with stack := st, sp := p, cfg := { s.cfg with stackSize := n } }) ∧
  (∀ (i : Instr) (s t : State) (hp : Memory) (n : Nat),
    ((∃ v, i = .push v) ∨ i = .pop ∨ (∃ v, i = .setsp v) ∨ i = .getsp) → exec i s = .next t →
    exec i { s with heap := hp, cfg := { s.cfg with heapSize := n } } =
      .next { t with heap := hp, cfg := { s.cfg with heapSize := n } })

/-! ### The registers -/

/-- 43_registers R105 (order of the tests: decision D11). -/
def Obligations.SetregStoresExactly : Prop :=
  ∀ (s : State) (i : RegIndex) (v : Nat), s.fsm = .running →
    (∀ h : i.toNat < 4, v < 2 ^ s.cfg.archBits →
      ∃ r, exec (.setreg i v) s = .next { s with regs := s.regs.set i.toNat v, ret := r }) ∧
    (i.toNat < 4 → 2 ^ s.cfg.archBits ≤ v → exec (.setreg i v) s = .next (raised s .registerOverflow .regOverflow)) ∧
    (4 ≤ i.toNat → exec (.setreg i v) s = .next (raised s .invalidRegister .regIndexWrite))

/-- 43_registers R106 (decision D12), on the model's result port (log 5). -/
def Obligations.GetregReturnsRegister : Prop :=
  ∀ (s : State) (i : RegIndex), s.fsm = .running →
    (∀ h : i.toNat < 4, exec (.getreg i) s = .next { s with ret := .num s.regs[i.toNat] }) ∧
    (4 ≤ i.toNat → exec (.getreg i) s = .next (raised s .invalidRegister .regIndexRead))

/-- 43_registers R107: (a) read-back, (b) independence, (c) no arithmetic: in any operation that performs no whole handler a
register keeps its value, takes exactly the value SETREG presents, or is zeroed by INITIALIZE. -/
def Obligations.RegisterLaws : Prop :=
  (∀ (s : State) (i : RegIndex) (v : Nat), s.fsm = .running → i.toNat < 4 → v < 2 ^ s.cfg.archBits →
    ∃ t, exec (.setreg i v) s = .next t ∧ (∃ u, exec (.getreg i) t = .next u ∧ u.ret = .num v) ∧
      ∀ j : RegIndex, j.toNat < 4 → j ≠ i →
        ∃ u w, exec (.getreg j) t = .next u ∧ exec (.getreg j) s = .next w ∧ u.ret = w.ret) ∧
  (∀ (i : Instr) (s t : State) (r : Fin 4), performsHandler i = false → exec i s = .next t →
    t.getReg r = s.getReg r ∨ (∃ k v, i = .setreg k v ∧ k.toNat = r.val ∧ t.getReg r = v ∧ v < 2 ^ s.cfg.archBits) ∨
      ((∃ a h k, i = .init a h k) ∧ t.getReg r = 0))

/-! ### Control -/

/-- 40_flag_table R83 (decision D33), on the model's result port (log 5). -/
def Obligations.LookupReturnsEntry : Prop :=
  ∀ (s : State) (l : Byte), s.fsm = .running → exec (.lookup l) s = .next { s with ret := .entry (s.flag.lookup l) }

/-- 44_fetch_execute R123 (decisions D17, D18): also where the target is `ip` itself. -/
def Obligations.SetipChecksTarget : Prop :=
  ∀ (s : State) (k : Nat), s.fsm = .running →
    (k < s.program.length → ∃ r, exec (.setip k) s = .next { s with ip := k, ipWritten := true, ret := r }) ∧
    (s.program.length ≤ k → exec (.setip k) s = .next (raised s .invalidInstructionPointer .ipSet))

/-- 44_fetch_execute R124, on the model's result port (log 5). -/
def Obligations.GetipReturnsOwnIndex : Prop :=
  ∀ s : State, s.fsm = .running → exec .getip s = .next { s with ret := .num s.ip }

/-- 44_fetch_execute R126 (decision D18). -/
def Obligations.JmpflagFollowsTable : Prop :=
  ∀ (s : State) (l : Byte), s.fsm = .running →
    (∀ k, s.flag.lookup l = some k → ∃ r, exec (.jmpflag l) s = .next { s with ip := k, ipWritten := true, ret := r }) ∧
    (s.flag.lookup l = none → exec (.jmpflag l) s = .next (raised s .invalidInstructionPointer .ipNoFlag))

/-- 44_fetch_execute R127 (decision D25): the signal alone, no halt by itself. -/
def Obligations.SethaltStoresSignal : Prop :=
  ∀ (s : State) (v : HaltWord), s.fsm = .running → ∃ r, exec (.sethalt v) s = .next { s with halt := v, ret := r }

/-- 44_fetch_execute R128 (decision D20): a byte of the fetched frame, on the model's result port (log 5, 15). -/
def Obligations.OperandReadsFetchedFrame : Prop :=
  ∀ (s : State) (j : Nat), s.fsm = .running →
    (∀ b, s.frame[j]? = some b → exec (.operand j) s = .next { s with ret := .byte b }) ∧
    (s.frame.length ≤ j → exec (.operand j) s = .next (raised s .unknownOpcode .shortFrame))

/-- Where the model stops (log 9, 12), and that it stops nowhere else. It refuses in states where the spec performs the
operation nowhere (60_exceptions R149, 70_reset R176, decision D30), and faults only in states that the invariants exclude
(10_state R27 items 1 and 3): in every state that meets them every operation answers a next state but where it is refused. -/
def Obligations.StopsOnlyWhereNotPerformed : Prop :=
  (∀ (i : Instr) (s : State),
    (isPrimitive i ∨ performsHandler i ∨ i = .empty ∨ (∃ l x, i = .flag l x) ∨ i = .finish ∨ i = .advance) →
    s.fsm ≠ .running → exec i s = .refused .outsideCycle) ∧
  (∀ s : State, s.fsm ≠ .ready → s.fsm ≠ .running → exec .rebuild s = .refused .outsideCommand) ∧
  (∀ s : State, s.fsm ≠ .ready → exec .enter s = .refused .outsideCommand) ∧
  (∀ s : State, s.fsm ≠ .halted → s.fsm ≠ .faulted → exec .result s = .refused .noResult) ∧
  (∀ s : State, s.fsm = .running → s.frame = [] → exec .dispatch s = .refused .noOpcode) ∧
  (∀ s : State, s.fsm = .running → s.program.length ≤ s.ip →
    exec .cycle s = .fault .noFrameAtIp ∧ step s = .fault .noFrameAtIp) ∧
  (∀ s : State, s.fsm = .running → s.sp ≠ 0 → s.cfg.stackSize ≤ s.sp → exec .pop s = .fault .stackCellAbsent) ∧
  (∀ (i : Instr) (s : State), s.Inv →
    (∃ t, exec i s = .next t) ∨
    ((isPrimitive i ∨ performsHandler i ∨ i = .empty ∨ (∃ l x, i = .flag l x) ∨ i = .finish ∨ i = .advance) ∧
      s.fsm ≠ .running) ∨
    (i = .rebuild ∧ s.fsm ≠ .ready ∧ s.fsm ≠ .running) ∨ (i = .enter ∧ s.fsm ≠ .ready) ∨
    (i = .result ∧ s.fsm ≠ .halted ∧ s.fsm ≠ .faulted) ∨ (i = .dispatch ∧ s.fsm = .running ∧ s.frame = []))

/-! ### Faults and whole-machine rules -/

/-- 20_memory R48: an operation that would move a pointer or store a value out of its range faults without changing anything,
and what it commits is in range (JMPFLAG's target is the table's). -/
def Obligations.RangeCheckedBeforeCommit : Prop :=
  ∀ (i : Instr) (s t : State), (isPrimitive i ∨ i = .advance) → exec i s = .next t →
    (t.fsm ≠ .running → ∃ k m, t = raised s k m) ∧
    (t.fsm = .running →
      (t.sp = s.sp ∨ t.sp < s.cfg.stackSize) ∧
      (t.ip = s.ip ∨ t.ip < s.program.length ∨ ∃ l, i = .jmpflag l ∧ s.flag.lookup l = some t.ip) ∧
      (∀ r : Fin 4, t.getReg r = s.getReg r ∨ t.getReg r < 2 ^ s.cfg.archBits) ∧
      (∀ a, t.stackAt a = s.stackAt a ∨ a < s.cfg.stackSize) ∧ (∀ a, t.heapAt a = s.heapAt a ∨ a < s.cfg.heapSize) ∧
      (i = .pop → s.sp = t.sp + 1))

/-- 60_exceptions R144, R154, 00_scope R4 (decision D22): whatever operation ends a run in Faulted, the record holds the kind of
its message and `FAULT_STATUS`, the one of the instance, which is not zero. -/
def Obligations.FaultRecordsKindAndStatus : Prop :=
  ∀ (i : Instr) (s t : State), exec i s = .next t → s.fsm ≠ .faulted → t.fsm = .faulted →
    (∃ m, m ≠ MsgId.none ∧ t.fault = { kind := m.kind, msg := m, status := s.params.faultStatus }) ∧
    t.params = s.params ∧ (s.Inv → t.fault.status ≠ 0)

/-- 70_reset R176, 60_exceptions R146 (decisions D3, D23): in Halted and Faulted only INITIALIZE changes anything; the host
may be told something (log 5). -/
def Obligations.EndedRunIsFrozen : Prop :=
  ∀ (i : Instr) (s t : State), (s.fsm = .halted ∨ s.fsm = .faulted) → (∀ a h k, i ≠ .init a h k) →
    exec i s = .next t → t = { s with reply := t.reply }

/-- 10_state R20: the latch is written by INITIALIZE only, with its arguments. -/
def Obligations.ConfigurationLatchedByInitialize : Prop :=
  ∀ (i : Instr) (s t : State), exec i s = .next t →
    t.cfg = s.cfg ∨
      ∃ a h k : Int, s.fsm ≠ .running ∧ i = .init a h k ∧
        (t.cfg.archBits : Int) = a ∧ (t.cfg.heapSize : Int) = h ∧ (t.cfg.stackSize : Int) = k

/-- 10_state R15, 44_fetch_execute R119 (decision D16): no operation but INITIALIZE lowers the counter, and none adds more
than one. -/
def Obligations.CycleCounterCountsByOne : Prop :=
  ∀ (i : Instr) (s t : State), (∀ a h k, i ≠ .init a h k) → exec i s = .next t →
    t.cycles = s.cycles ∨ t.cycles = s.cycles + 1

/-- 10_state R15: no fault, no halt and no handler depends on the counter: a running step from a state that has counted `n`
more does the same. -/
def Obligations.CycleCounterUnobserved : Prop :=
  ∀ (s t : State) (n : Nat), s.fsm = .running → step s = .next t →
    step { s with cycles := s.cycles + n } = .next { t with cycles := t.cycles + n }

/-- 20_memory R41, R54: a step of a run changes neither the Program nor the flag table nor the parameters. -/
def Obligations.RunKeepsProgramAndTable : Prop :=
  ∀ s t : State, s.fsm = .running → step s = .next t →
    t.program = s.program ∧ t.flag = s.flag ∧ t.params = s.params ∧ t.inbox = s.inbox ∧ t.draw = s.draw

/-- Log 3: every operation keeps the canonical form of both memories. -/
def Obligations.MemoriesStayCanonical : Prop :=
  ∀ (i : Instr) (s t : State), s.stack.wf → s.heap.wf → exec i s = .next t → t.stack.wf ∧ t.heap.wf

/-- 10_state R27: the invariants hold at reset. -/
def Obligations.ResetMeetsInvariant : Prop := State.reset.Inv

/-- 10_state R27: every step keeps the invariants, from every state that meets them. -/
def Obligations.StepKeepsInvariant : Prop :=
  ∀ s t : State, s.Inv → step s = .next t → t.Inv

/-- 10_state R27, 44_fetch_execute R113, R115, R121: under the invariants a running machine fetches a frame that decodes; a step
always answers, in whatever state; and a cycle always answers under any opcode table with any handlers, and keeps the
invariants. -/
def Obligations.StepAlwaysAnswers : Prop :=
  (∀ s : State, s.Inv → s.fsm = .running →
    ∃ f i, s.program[s.ip]? = some f ∧ decodeFrame s.params.flagId f = .ok i ∧ i.wellFormed s.params.flagId) ∧
  (∀ s : State, s.Inv → ∃ t, step s = .next t) ∧
  (∀ (T : OpTable) (s : State), s.Inv → s.fsm = .running → ∃ t, cycleUnder T s = .next t ∧ t.Inv) ∧
  (∀ s : State, exec .cycle s = cycleUnder (opTable s.params) s)

/-! ### The step, the decoder and the encoder -/

/-- 44_fetch_execute R110, R113, R129 (log 7): while Running, a step is `exec` of the decoded instruction on the state with
the frame latched and `ip_written` cleared; then the cycle is counted if the run goes on, and RESULT is returned if it has
ended. -/
def Obligations.StepRunsDecodedInstruction : Prop :=
  ∀ (s t : State) (f : Frame) (i : Instr), s.fsm = .running → s.program[s.ip]? = some f →
    decodeFrame s.params.flagId f = .ok i → exec i { s with frame := f, ipWritten := false } = .next t →
    (t.fsm = .running → step s = .next { t with cycles := t.cycles + 1 }) ∧
    (t.fsm = .halted → step s = .next { t with reply := .ok t.halt }) ∧
    (t.fsm = .faulted → step s = .next { t with reply := .fault t.fault })

/-- 60_exceptions R149, 70_reset R176, log 6, 7: when no run is in progress a step is `exec` of the host's next command, each of
the five, and without one the state stays. -/
def Obligations.StepRunsHostCommand : Prop :=
  ∀ (s : State) (rest : List HostCommand), s.fsm ≠ .running →
    (s.inbox = [] → step s = .next s) ∧
    (∀ a h k, s.inbox = .initialization a h k :: rest → step s = exec (.init a h k) { s with inbox := rest }) ∧
    (∀ p, s.inbox = .attach p :: rest → step s = exec (.attach p) { s with inbox := rest }) ∧
    (s.inbox = .run :: rest → step s = exec .run { s with inbox := rest }) ∧
    (∀ p, s.inbox = .runp p :: rest → step s = exec (.runp p) { s with inbox := rest }) ∧
    (s.inbox = .snapshot :: rest → step s = exec .snapshot { s with inbox := rest })

/-- 30_encoding R62: the three formats, from the length and byte 0 alone. -/
def Obligations.FrameClassFromFirstByte : Prop :=
  ∀ (flagId : Byte) (f : Frame),
    (f.length = 0 → classify flagId f = .empty) ∧
    (1 ≤ f.length → f[0]? = some flagId → classify flagId f = .flag) ∧
    (1 ≤ f.length → f[0]? ≠ some flagId → classify flagId f = .op)

/-- 30_encoding R63, R64, R65: every program of well-formed frame operations, encoded and decoded, is itself. -/
def Obligations.DecodeOfEncodedProgram : Prop :=
  ∀ (flagId : Byte) (is : List Instr),
    (∀ i ∈ is, i.wellFormed flagId ∧ (i = .empty ∨ (∃ l x, i = .flag l x) ∨ ∃ b r, i = .op b r)) →
    ∃ p, encodeProgram flagId is = some p ∧ decodeProgram flagId p = .ok is

/-- 30_encoding R62 to R65, R68 (decision D13): what the decoder accepts is well formed and encodes to the same frames, and
it rejects exactly the programs with a malformed flag frame. -/
def Obligations.EncodeOfDecodedProgram : Prop :=
  ∀ (flagId : Byte) (p : Program),
    (∀ is, decodeProgram flagId p = .ok is → encodeProgram flagId is = some p ∧ ∀ i ∈ is, i.wellFormed flagId) ∧
    ((∃ is, decodeProgram flagId p = .ok is) ↔ FlagsWellFormed flagId p)

/-- 30_encoding R63, R64, R65 with the default `FLAG_ID`: words of the opcode table's numbering, written out, and the two
illegal flag frames. -/
def Obligations.WordsDecode : Prop :=
  decodeTableWord 0 0 = some .empty ∧ decodeTableWord 16 0x01FF = some (.flag 0x01 []) ∧
  decodeTableWord 24 0x9901FF = some (.flag 0x01 [0x99]) ∧ decodeTableWord 8 0x10 = some (.op 0x10 []) ∧
  decodeTableWord 24 0x030002 = some (.op 0x02 [0x00, 0x03]) ∧
  decodeFrame 0xFF [0xFF] = .error .flagNoLabel ∧ decodeFrame 0xFF [0xFF, 0xFF] = .error .flagAdjacent
end

