-- ==== Sys2Proof/Laws/State.lean ====
section
/-! SUPPORT. One lemma per field per named update of the state, and one for the whole of each conditional update. -/

namespace Sys2Proof.Machine

/-! ### raise -/

@[simp] theorem State.raise_regs (s : State) (m : MsgId) : (s.raise m).regs = s.regs := rfl
@[simp] theorem State.raise_ip (s : State) (m : MsgId) : (s.raise m).ip = s.ip := rfl
@[simp] theorem State.raise_sp (s : State) (m : MsgId) : (s.raise m).sp = s.sp := rfl
@[simp] theorem State.raise_cycles (s : State) (m : MsgId) : (s.raise m).cycles = s.cycles := rfl
@[simp] theorem State.raise_halt (s : State) (m : MsgId) : (s.raise m).halt = s.halt := rfl
@[simp] theorem State.raise_fsm (s : State) (m : MsgId) : (s.raise m).fsm = .faulted := rfl
@[simp] theorem State.raise_fault (s : State) (m : MsgId) :
    (s.raise m).fault = { kind := m.kind, msg := m, status := s.params.faultStatus } := rfl
@[simp] theorem State.raise_ipWritten (s : State) (m : MsgId) : (s.raise m).ipWritten = s.ipWritten := rfl
@[simp] theorem State.raise_cfg (s : State) (m : MsgId) : (s.raise m).cfg = s.cfg := rfl
@[simp] theorem State.raise_program (s : State) (m : MsgId) : (s.raise m).program = s.program := rfl
@[simp] theorem State.raise_flag (s : State) (m : MsgId) : (s.raise m).flag = s.flag := rfl
@[simp] theorem State.raise_stack (s : State) (m : MsgId) : (s.raise m).stack = s.stack := rfl
@[simp] theorem State.raise_heap (s : State) (m : MsgId) : (s.raise m).heap = s.heap := rfl
@[simp] theorem State.raise_params (s : State) (m : MsgId) : (s.raise m).params = s.params := rfl
@[simp] theorem State.raise_frame (s : State) (m : MsgId) : (s.raise m).frame = s.frame := rfl
@[simp] theorem State.raise_ret (s : State) (m : MsgId) : (s.raise m).ret = s.ret := rfl
@[simp] theorem State.raise_reply (s : State) (m : MsgId) : (s.raise m).reply = s.reply := rfl
@[simp] theorem State.raise_inbox (s : State) (m : MsgId) : (s.raise m).inbox = s.inbox := rfl
@[simp] theorem State.raise_draw (s : State) (m : MsgId) : (s.raise m).draw = s.draw := rfl

/-! ### setReg -/

@[simp] theorem State.setReg_regs (s : State) (i : Fin 4) (v : Nat) : (s.setReg i v).regs = s.regs.set i v := rfl
@[simp] theorem State.setReg_ip (s : State) (i : Fin 4) (v : Nat) : (s.setReg i v).ip = s.ip := rfl
@[simp] theorem State.setReg_sp (s : State) (i : Fin 4) (v : Nat) : (s.setReg i v).sp = s.sp := rfl
@[simp] theorem State.setReg_cycles (s : State) (i : Fin 4) (v : Nat) : (s.setReg i v).cycles = s.cycles := rfl
@[simp] theorem State.setReg_halt (s : State) (i : Fin 4) (v : Nat) : (s.setReg i v).halt = s.halt := rfl
@[simp] theorem State.setReg_fsm (s : State) (i : Fin 4) (v : Nat) : (s.setReg i v).fsm = s.fsm := rfl
@[simp] theorem State.setReg_fault (s : State) (i : Fin 4) (v : Nat) : (s.setReg i v).fault = s.fault := rfl
@[simp] theorem State.setReg_ipWritten (s : State) (i : Fin 4) (v : Nat) : (s.setReg i v).ipWritten = s.ipWritten := rfl
@[simp] theorem State.setReg_cfg (s : State) (i : Fin 4) (v : Nat) : (s.setReg i v).cfg = s.cfg := rfl
@[simp] theorem State.setReg_program (s : State) (i : Fin 4) (v : Nat) : (s.setReg i v).program = s.program := rfl
@[simp] theorem State.setReg_flag (s : State) (i : Fin 4) (v : Nat) : (s.setReg i v).flag = s.flag := rfl
@[simp] theorem State.setReg_stack (s : State) (i : Fin 4) (v : Nat) : (s.setReg i v).stack = s.stack := rfl
@[simp] theorem State.setReg_heap (s : State) (i : Fin 4) (v : Nat) : (s.setReg i v).heap = s.heap := rfl
@[simp] theorem State.setReg_params (s : State) (i : Fin 4) (v : Nat) : (s.setReg i v).params = s.params := rfl
@[simp] theorem State.setReg_frame (s : State) (i : Fin 4) (v : Nat) : (s.setReg i v).frame = s.frame := rfl
@[simp] theorem State.setReg_ret (s : State) (i : Fin 4) (v : Nat) : (s.setReg i v).ret = s.ret := rfl
@[simp] theorem State.setReg_reply (s : State) (i : Fin 4) (v : Nat) : (s.setReg i v).reply = s.reply := rfl
@[simp] theorem State.setReg_inbox (s : State) (i : Fin 4) (v : Nat) : (s.setReg i v).inbox = s.inbox := rfl
@[simp] theorem State.setReg_draw (s : State) (i : Fin 4) (v : Nat) : (s.setReg i v).draw = s.draw := rfl

/-! ### jump -/

@[simp] theorem State.jump_regs (s : State) (k : Nat) : (s.jump k).regs = s.regs := rfl
@[simp] theorem State.jump_ip (s : State) (k : Nat) : (s.jump k).ip = k := rfl
@[simp] theorem State.jump_sp (s : State) (k : Nat) : (s.jump k).sp = s.sp := rfl
@[simp] theorem State.jump_cycles (s : State) (k : Nat) : (s.jump k).cycles = s.cycles := rfl
@[simp] theorem State.jump_halt (s : State) (k : Nat) : (s.jump k).halt = s.halt := rfl
@[simp] theorem State.jump_fsm (s : State) (k : Nat) : (s.jump k).fsm = s.fsm := rfl
@[simp] theorem State.jump_fault (s : State) (k : Nat) : (s.jump k).fault = s.fault := rfl
@[simp] theorem State.jump_ipWritten (s : State) (k : Nat) : (s.jump k).ipWritten = true := rfl
@[simp] theorem State.jump_cfg (s : State) (k : Nat) : (s.jump k).cfg = s.cfg := rfl
@[simp] theorem State.jump_program (s : State) (k : Nat) : (s.jump k).program = s.program := rfl
@[simp] theorem State.jump_flag (s : State) (k : Nat) : (s.jump k).flag = s.flag := rfl
@[simp] theorem State.jump_stack (s : State) (k : Nat) : (s.jump k).stack = s.stack := rfl
@[simp] theorem State.jump_heap (s : State) (k : Nat) : (s.jump k).heap = s.heap := rfl
@[simp] theorem State.jump_params (s : State) (k : Nat) : (s.jump k).params = s.params := rfl
@[simp] theorem State.jump_frame (s : State) (k : Nat) : (s.jump k).frame = s.frame := rfl
@[simp] theorem State.jump_ret (s : State) (k : Nat) : (s.jump k).ret = s.ret := rfl
@[simp] theorem State.jump_reply (s : State) (k : Nat) : (s.jump k).reply = s.reply := rfl
@[simp] theorem State.jump_inbox (s : State) (k : Nat) : (s.jump k).inbox = s.inbox := rfl
@[simp] theorem State.jump_draw (s : State) (k : Nat) : (s.jump k).draw = s.draw := rfl

/-! ### beginCycle -/

@[simp] theorem State.beginCycle_regs (s : State) (f : Frame) : (s.beginCycle f).regs = s.regs := rfl
@[simp] theorem State.beginCycle_ip (s : State) (f : Frame) : (s.beginCycle f).ip = s.ip := rfl
@[simp] theorem State.beginCycle_sp (s : State) (f : Frame) : (s.beginCycle f).sp = s.sp := rfl
@[simp] theorem State.beginCycle_cycles (s : State) (f : Frame) : (s.beginCycle f).cycles = s.cycles := rfl
@[simp] theorem State.beginCycle_halt (s : State) (f : Frame) : (s.beginCycle f).halt = s.halt := rfl
@[simp] theorem State.beginCycle_fsm (s : State) (f : Frame) : (s.beginCycle f).fsm = s.fsm := rfl
@[simp] theorem State.beginCycle_fault (s : State) (f : Frame) : (s.beginCycle f).fault = s.fault := rfl
@[simp] theorem State.beginCycle_ipWritten (s : State) (f : Frame) : (s.beginCycle f).ipWritten = false := rfl
@[simp] theorem State.beginCycle_cfg (s : State) (f : Frame) : (s.beginCycle f).cfg = s.cfg := rfl
@[simp] theorem State.beginCycle_program (s : State) (f : Frame) : (s.beginCycle f).program = s.program := rfl
@[simp] theorem State.beginCycle_flag (s : State) (f : Frame) : (s.beginCycle f).flag = s.flag := rfl
@[simp] theorem State.beginCycle_stack (s : State) (f : Frame) : (s.beginCycle f).stack = s.stack := rfl
@[simp] theorem State.beginCycle_heap (s : State) (f : Frame) : (s.beginCycle f).heap = s.heap := rfl
@[simp] theorem State.beginCycle_params (s : State) (f : Frame) : (s.beginCycle f).params = s.params := rfl
@[simp] theorem State.beginCycle_frame (s : State) (f : Frame) : (s.beginCycle f).frame = f := rfl
@[simp] theorem State.beginCycle_ret (s : State) (f : Frame) : (s.beginCycle f).ret = s.ret := rfl
@[simp] theorem State.beginCycle_reply (s : State) (f : Frame) : (s.beginCycle f).reply = s.reply := rfl
@[simp] theorem State.beginCycle_inbox (s : State) (f : Frame) : (s.beginCycle f).inbox = s.inbox := rfl
@[simp] theorem State.beginCycle_draw (s : State) (f : Frame) : (s.beginCycle f).draw = s.draw := rfl

/-! ### refuse -/

@[simp] theorem State.refuse_regs (s : State) : (s.refuse).regs = s.regs := rfl
@[simp] theorem State.refuse_ip (s : State) : (s.refuse).ip = s.ip := rfl
@[simp] theorem State.refuse_sp (s : State) : (s.refuse).sp = s.sp := rfl
@[simp] theorem State.refuse_cycles (s : State) : (s.refuse).cycles = s.cycles := rfl
@[simp] theorem State.refuse_halt (s : State) : (s.refuse).halt = s.halt := rfl
@[simp] theorem State.refuse_fsm (s : State) : (s.refuse).fsm = s.fsm := rfl
@[simp] theorem State.refuse_fault (s : State) : (s.refuse).fault = s.fault := rfl
@[simp] theorem State.refuse_ipWritten (s : State) : (s.refuse).ipWritten = s.ipWritten := rfl
@[simp] theorem State.refuse_cfg (s : State) : (s.refuse).cfg = s.cfg := rfl
@[simp] theorem State.refuse_program (s : State) : (s.refuse).program = s.program := rfl
@[simp] theorem State.refuse_flag (s : State) : (s.refuse).flag = s.flag := rfl
@[simp] theorem State.refuse_stack (s : State) : (s.refuse).stack = s.stack := rfl
@[simp] theorem State.refuse_heap (s : State) : (s.refuse).heap = s.heap := rfl
@[simp] theorem State.refuse_params (s : State) : (s.refuse).params = s.params := rfl
@[simp] theorem State.refuse_frame (s : State) : (s.refuse).frame = s.frame := rfl
@[simp] theorem State.refuse_ret (s : State) : (s.refuse).ret = s.ret := rfl
@[simp] theorem State.refuse_reply (s : State) : (s.refuse).reply = .refused := rfl
@[simp] theorem State.refuse_inbox (s : State) : (s.refuse).inbox = s.inbox := rfl
@[simp] theorem State.refuse_draw (s : State) : (s.refuse).draw = s.draw := rfl

/-! ### deliver -/

@[simp] theorem State.deliver_regs (s : State) (r : Reply) : (s.deliver r).regs = s.regs := rfl
@[simp] theorem State.deliver_ip (s : State) (r : Reply) : (s.deliver r).ip = s.ip := rfl
@[simp] theorem State.deliver_sp (s : State) (r : Reply) : (s.deliver r).sp = s.sp := rfl
@[simp] theorem State.deliver_cycles (s : State) (r : Reply) : (s.deliver r).cycles = s.cycles := rfl
@[simp] theorem State.deliver_halt (s : State) (r : Reply) : (s.deliver r).halt = s.halt := rfl
@[simp] theorem State.deliver_fsm (s : State) (r : Reply) : (s.deliver r).fsm = s.fsm := rfl
@[simp] theorem State.deliver_fault (s : State) (r : Reply) : (s.deliver r).fault = s.fault := rfl
@[simp] theorem State.deliver_ipWritten (s : State) (r : Reply) : (s.deliver r).ipWritten = s.ipWritten := rfl
@[simp] theorem State.deliver_cfg (s : State) (r : Reply) : (s.deliver r).cfg = s.cfg := rfl
@[simp] theorem State.deliver_program (s : State) (r : Reply) : (s.deliver r).program = s.program := rfl
@[simp] theorem State.deliver_flag (s : State) (r : Reply) : (s.deliver r).flag = s.flag := rfl
@[simp] theorem State.deliver_stack (s : State) (r : Reply) : (s.deliver r).stack = s.stack := rfl
@[simp] theorem State.deliver_heap (s : State) (r : Reply) : (s.deliver r).heap = s.heap := rfl
@[simp] theorem State.deliver_params (s : State) (r : Reply) : (s.deliver r).params = s.params := rfl
@[simp] theorem State.deliver_frame (s : State) (r : Reply) : (s.deliver r).frame = s.frame := rfl
@[simp] theorem State.deliver_ret (s : State) (r : Reply) : (s.deliver r).ret = s.ret := rfl
@[simp] theorem State.deliver_reply (s : State) (r : Reply) : (s.deliver r).reply = s.result?.getD r := rfl
@[simp] theorem State.deliver_inbox (s : State) (r : Reply) : (s.deliver r).inbox = s.inbox := rfl
@[simp] theorem State.deliver_draw (s : State) (r : Reply) : (s.deliver r).draw = s.draw := rfl

/-! ### initialized -/

@[simp] theorem State.initialized_regs (s : State) (cfg : Cfg) : (s.initialized cfg).regs = State.reset.regs := rfl
@[simp] theorem State.initialized_ip (s : State) (cfg : Cfg) : (s.initialized cfg).ip = State.reset.ip := rfl
@[simp] theorem State.initialized_sp (s : State) (cfg : Cfg) : (s.initialized cfg).sp = State.reset.sp := rfl
@[simp] theorem State.initialized_cycles (s : State) (cfg : Cfg) : (s.initialized cfg).cycles = State.reset.cycles := rfl
@[simp] theorem State.initialized_halt (s : State) (cfg : Cfg) : (s.initialized cfg).halt = State.reset.halt := rfl
@[simp] theorem State.initialized_fsm (s : State) (cfg : Cfg) : (s.initialized cfg).fsm = State.reset.fsm := rfl
@[simp] theorem State.initialized_fault (s : State) (cfg : Cfg) : (s.initialized cfg).fault = State.reset.fault := rfl
@[simp] theorem State.initialized_ipWritten (s : State) (cfg : Cfg) : (s.initialized cfg).ipWritten = State.reset.ipWritten := rfl
@[simp] theorem State.initialized_cfg (s : State) (cfg : Cfg) : (s.initialized cfg).cfg = cfg := rfl
@[simp] theorem State.initialized_program (s : State) (cfg : Cfg) : (s.initialized cfg).program = State.reset.program := rfl
@[simp] theorem State.initialized_flag (s : State) (cfg : Cfg) : (s.initialized cfg).flag = State.reset.flag := rfl
@[simp] theorem State.initialized_stack (s : State) (cfg : Cfg) : (s.initialized cfg).stack = State.reset.stack := rfl
@[simp] theorem State.initialized_heap (s : State) (cfg : Cfg) : (s.initialized cfg).heap = State.reset.heap := rfl
@[simp] theorem State.initialized_params (s : State) (cfg : Cfg) : (s.initialized cfg).params = s.params := rfl
@[simp] theorem State.initialized_frame (s : State) (cfg : Cfg) : (s.initialized cfg).frame = State.reset.frame := rfl
@[simp] theorem State.initialized_ret (s : State) (cfg : Cfg) : (s.initialized cfg).ret = State.reset.ret := rfl
@[simp] theorem State.initialized_reply (s : State) (cfg : Cfg) : (s.initialized cfg).reply = .done := rfl
@[simp] theorem State.initialized_inbox (s : State) (cfg : Cfg) : (s.initialized cfg).inbox = s.inbox := rfl
@[simp] theorem State.initialized_draw (s : State) (cfg : Cfg) : (s.initialized cfg).draw = s.draw + 1 := rfl

end Sys2Proof.Machine
end

