-- ==== Sys2Proof/Laws/Flags.lean ====
section
/-! SUPPORT. The laws of the flag table: its entries, what one frame declares, and what the scan does. -/

namespace Sys2Proof.Machine

@[simp] theorem FlagTable.lookup_clear (l : Byte) : FlagTable.clear.lookup l = none := by
  simp [FlagTable.lookup, FlagTable.clear]

@[simp] theorem FlagTable.lookup_declare_same (t : FlagTable) (l : Byte) (k : Nat) : (t.declare l k).lookup l = some k := by
  simp [FlagTable.lookup, FlagTable.declare]

theorem FlagTable.lookup_declare_other (t : FlagTable) {l x : Byte} (k : Nat) (h : x ≠ l) :
    (t.declare l k).lookup x = t.lookup x := by
  have hne : l.toNat ≠ x.toNat := fun he => h (BitVec.eq_of_toNat_eq he.symm)
  simp [FlagTable.lookup, FlagTable.declare, hne]

/-- What one frame declares, in terms of its first two bytes (40_flag_table R80, R81). -/
theorem declarationOf_cases (flagId : Byte) (f : Frame) :
    (declarationOf flagId f = .nothing ∧ ¬ Malformed flagId f ∧ ∀ l, ¬ Declares flagId l f) ∨
    (∃ l, declarationOf flagId f = .label l ∧ ¬ Malformed flagId f ∧ ∀ x, Declares flagId x f ↔ x = l) ∨
    (declarationOf flagId f = .malformed (if f.length = 1 then .flagNoLabel else .flagAdjacent) ∧ Malformed flagId f) := by
  match f with
  | [] => left; simp [declarationOf, Malformed, Declares]
  | [b] =>
    by_cases hb : b = flagId
    · right; right; simp [declarationOf, Malformed, hb]
    · left; simp [declarationOf, Malformed, Declares, hb]
  | b :: l :: rest =>
    by_cases hb : b = flagId
    · by_cases hl : l = flagId
      · right; right; simp [declarationOf, Malformed, hb, hl]
      · right; left
        exact ⟨l, by simp [declarationOf, hb, hl], by simp [Malformed, hb, hl], by simp [Declares, hb, eq_comm]⟩
    · left; simp [declarationOf, Malformed, Declares, hb]

/-- What the scan does from index `k` on (40_flag_table R80): the frames before the first malformed one are recorded, in
index order. -/
theorem scanFlags_cons (flagId : Byte) (f : Frame) (fs : Program) (k : Nat) (t : FlagTable) :
    (declarationOf flagId f = .nothing ∧ scanFlags flagId (f :: fs) k t = scanFlags flagId fs (k + 1) t) ∨
    (∃ l, declarationOf flagId f = .label l ∧
      scanFlags flagId (f :: fs) k t = scanFlags flagId fs (k + 1) (t.declare l k)) ∨
    (∃ m, declarationOf flagId f = .malformed m ∧ scanFlags flagId (f :: fs) k t = (t, some m)) := by
  cases h : declarationOf flagId f with
  | nothing => left; simp [scanFlags, h]
  | label l => right; left; exact ⟨l, rfl, by simp [scanFlags, h]⟩
  | malformed m => right; right; exact ⟨m, rfl, by simp [scanFlags, h]⟩

/-- A program that is not well formed has a first malformed flag frame (40_flag_table R80). -/
theorem exists_firstMalformed {flagId : Byte} {p : Program} (h : ¬ FlagsWellFormed flagId p) :
    ∃ k f, FirstMalformed flagId p k f := by
  induction p with
  | nil => exact absurd (by simp [FlagsWellFormed]) h
  | cons g fs ih =>
    by_cases hg : Malformed flagId g
    · exact ⟨0, g, rfl, hg, by simp [FlagsWellFormed]⟩
    · have hfs : ¬ FlagsWellFormed flagId fs := fun hw =>
        h fun x hx => (List.mem_cons.mp hx).elim (fun e => e ▸ hg) (hw x)
      obtain ⟨k, f, h1, h2, h3⟩ := ih hfs
      refine ⟨k + 1, f, by simpa using h1, h2, fun x hx => ?_⟩
      rw [List.take_succ_cons] at hx
      exact (List.mem_cons.mp hx).elim (fun e => e ▸ hg) (h3 x)

/-- REBUILD changes the table, and raises the scan's message if there is one (40_flag_table R80). -/
theorem State.rebuild_cases (s : State) :
    (∃ t, scanFlags s.params.flagId s.program 0 FlagTable.clear = (t, none) ∧ s.rebuild = { s with flag := t }) ∨
    (∃ t m, scanFlags s.params.flagId s.program 0 FlagTable.clear = (t, some m) ∧
      s.rebuild = State.raise { s with flag := t } m) := by
  cases h : scanFlags s.params.flagId s.program 0 FlagTable.clear with
  | mk t r => cases r with
    | none => left; exact ⟨t, rfl, by simp [State.rebuild, h, State.unless]⟩
    | some m => right; exact ⟨t, m, rfl, by simp [State.rebuild, h, State.unless]⟩

end Sys2Proof.Machine
end

