-- ==== Sys2Proof/Laws/Memory.lean ====
section
/-! SUPPORT. The laws of the memories: read after write, and the canonical form. -/

namespace Sys2Proof.Machine

@[simp] theorem Memory.get?_write_same (m : Memory) (a : Nat) (b : Byte) : (m.write a b).get? a = some b := by
  induction m with
  | nil => simp [Memory.write, Memory.get?]
  | cons c m ih =>
    simp only [Memory.write]
    split
    · simp [Memory.get?]
    · split
      · simp [Memory.get?]
      · have hne : c.1 ≠ a := by omega
        simp [Memory.get?, hne, ih]

theorem Memory.get?_write_other (m : Memory) {a x : Nat} (b : Byte) (h : x ≠ a) : (m.write a b).get? x = m.get? x := by
  induction m with
  | nil => simp [Memory.write, Memory.get?, Ne.symm h]
  | cons c m ih =>
    simp only [Memory.write]
    split
    · simp [Memory.get?, Ne.symm h]
    · split
      · next hc => simp [Memory.get?, ← hc, Ne.symm h]
      · simp [Memory.get?, ih]

@[simp] theorem Memory.read_write_same (m : Memory) (sp : MemSpace) (d a : Nat) (b : Byte) :
    Memory.read (m.write a b) sp d a = b := by simp [Memory.read]

theorem Memory.read_write_other (m : Memory) (sp : MemSpace) (d : Nat) {a x : Nat} (b : Byte) (h : x ≠ a) :
    Memory.read (m.write a b) sp d x = Memory.read m sp d x := by simp [Memory.read, Memory.get?_write_other m b h]

/-- A cell in front of a canonical memory whose first address is greater. -/
theorem Memory.wf_cons {c : Host.Cell} {m : Memory} :
    Memory.wf (c :: m) = true ↔ (∀ d ∈ m.head?, c.1 < d.1) ∧ m.wf = true := by
  cases m with
  | nil => simp [Memory.wf]
  | cons d m => simp [Memory.wf]

theorem Memory.head?_write (m : Memory) (a : Nat) (b : Byte) :
    ∀ d ∈ (m.write a b).head?, d.1 = a ∨ ∃ c ∈ m.head?, d.1 = c.1 ∧ c.1 < a := by
  cases m with
  | nil => simp [Memory.write]
  | cons c m =>
    simp only [Memory.write]
    split
    · simp
    · split
      · simp
      · simp; omega

/-- A write keeps the canonical form. -/
theorem Memory.wf_write {m : Memory} (h : m.wf = true) (a : Nat) (b : Byte) : (m.write a b).wf = true := by
  induction m with
  | nil => rfl
  | cons c m ih =>
    obtain ⟨h1, h2⟩ := Memory.wf_cons.mp h
    simp only [Memory.write]
    split
    · next hlt => exact Memory.wf_cons.mpr ⟨by simpa using hlt, h⟩
    · split
      · next heq => exact Memory.wf_cons.mpr ⟨by simpa [heq] using h1, h2⟩
      · refine Memory.wf_cons.mpr ⟨fun d hd => ?_, ih h2⟩
        rcases Memory.head?_write m a b d hd with hda | ⟨e, he, hde, _⟩
        · omega
        · have := h1 e he; omega

theorem State.reset_memories_wf : State.reset.stack.wf = true ∧ State.reset.heap.wf = true := ⟨rfl, rfl⟩

end Sys2Proof.Machine
end

