-- ==== Sys2Proof/Laws/Ops.lean ====
section
/-! SUPPORT. What each shared operation can do, said once. -/

namespace Sys2Proof.Machine

/-! ### Outcomes -/

theorem inCycle_next {s t : State} {o : Out} : inCycle s o = .next t ↔ s.fsm = .running ∧ o = .next t := by
  cases h : s.fsm <;> simp [inCycle, h]

@[simp] theorem inCycle_running {s : State} (h : s.fsm = .running) (o : Out) : inCycle s o = o := by simp [inCycle, h]

theorem inCycle_outside {s : State} (h : s.fsm ≠ .running) (o : Out) : inCycle s o = .refused .outsideCycle := by
  cases hs : s.fsm <;> simp_all [inCycle]

theorem mapNext_next {g : State → State} {o : Out} {t : State} : mapNext g o = .next t ↔ ∃ u, o = .next u ∧ g u = t := by
  cases o <;> simp [mapNext]

theorem whileRunning_next {k : State → Out} {o : Out} {t : State} :
    whileRunning k o = .next t ↔
      ∃ u, o = .next u ∧ ((u.fsm = .running ∧ k u = .next t) ∨ (u.fsm ≠ .running ∧ u = t)) := by
  cases o with
  | next u => cases h : u.fsm <;> simp [whileRunning, h]
  | fault r => simp [whileRunning]
  | refused r => simp [whileRunning]

@[simp] theorem whileRunning_running {k : State → Out} {u : State} (h : u.fsm = .running) :
    whileRunning k (.next u) = k u := by simp [whileRunning, h]

theorem whileRunning_ended {k : State → Out} {u : State} (h : u.fsm ≠ .running) : whileRunning k (.next u) = .next u := by
  cases hu : u.fsm <;> simp_all [whileRunning]

/-! ### Conditional updates -/

theorem State.unless_cases (s t : State) (r : Option MsgId) :
    (r = none ∧ s.unless r t = t) ∨ ∃ m, r = some m ∧ s.unless r t = s.raise m := by
  cases r with
  | none => left; exact ⟨rfl, rfl⟩
  | some m => right; exact ⟨m, rfl, rfl⟩

theorem State.advance_cases (s : State) :
    (s.ip + 1 < s.program.length ∧ s.advance = { s with ip := s.ip + 1 }) ∨
    (s.program.length ≤ s.ip + 1 ∧ s.advance = s.raise .ipAdvance) := by
  by_cases h : s.ip + 1 < s.program.length
  · left; exact ⟨h, by simp [State.advance]; omega⟩
  · right; exact ⟨by omega, by simp [State.advance]; omega⟩

theorem State.finish_cases (s : State) :
    (s.halt ≠ 0 ∧ s.finish = { s with cycles := s.cycles + 1, fsm := .halted }) ∨
    (s.halt = 0 ∧ s.ipWritten = true ∧ s.finish = s) ∨
    (s.halt = 0 ∧ s.ipWritten = false ∧ s.finish = s.advance) := by
  by_cases h : s.halt = 0
  · cases hw : s.ipWritten <;> simp [State.finish, h, hw]
  · left; exact ⟨h, if_pos h⟩

theorem State.endCycle_cases (s : State) :
    (s.fsm = .running ∧ s.endCycle = { s with cycles := s.cycles + 1 }) ∨ (s.fsm ≠ .running ∧ s.endCycle = s) := by
  cases h : s.fsm <;> simp [State.endCycle, h]

theorem State.result?_cases (s : State) :
    (s.fsm = .halted ∧ s.result? = some (.ok s.halt)) ∨ (s.fsm = .faulted ∧ s.result? = some (.fault s.fault)) ∨
    (s.fsm ≠ .halted ∧ s.fsm ≠ .faulted ∧ s.result? = none) := by
  cases h : s.fsm <;> simp [State.result?, h]

/-! ### Operand tests -/

theorem rangeTest_none {v : Int} {n : Nat} {below above : MsgId} :
    rangeTest v n below above = none ↔ 0 ≤ v ∧ v < n := by
  unfold rangeTest
  by_cases h0 : v < 0
  · have : ¬ (0 ≤ v ∧ v < (n : Int)) := by omega
    simp [h0, this]
  · by_cases hn : (n : Int) ≤ v
    · have : ¬ (0 ≤ v ∧ v < (n : Int)) := by omega
      simp [h0, hn, this]
    · have : 0 ≤ v ∧ v < (n : Int) := by omega
      simp [h0, hn, this]

theorem rangeTest_some {v : Int} {n : Nat} {below above m : MsgId} :
    rangeTest v n below above = some m ↔ (v < 0 ∧ m = below) ∨ (n ≤ v ∧ m = above) := by
  unfold rangeTest
  by_cases h0 : v < 0
  · have : ¬ (n : Int) ≤ v := by omega
    simp [h0, this, eq_comm]
  · by_cases hn : (n : Int) ≤ v <;> simp [h0, hn, eq_comm]

theorem register?_some {i : RegIndex} {r : Fin 4} : register? i = some r ↔ i.toNat = r.val := by
  unfold register?
  split
  · simp [Fin.ext_iff]
  · simp; omega

theorem register?_none {i : RegIndex} : register? i = none ↔ 4 ≤ i.toNat := by
  simp [register?]

/-- The programs ATTACH and RUNP take (30_encoding R61). -/
theorem fits_iff {p : Program} : p.fits = true ↔ p.length < 2 ^ 32 := by
  unfold Program.fits Config.programLimit
  exact decide_eq_true_iff

/-- The configurations INITIALIZE takes (70_reset R171). -/
theorem legalConfig_iff {a h k : Int} : legalConfig a h k = true ↔ a ≥ 1 ∧ h ≥ 0 ∧ k ≥ 1 := by
  simp [legalConfig, and_assoc]

/-- The status of a fault is not zero (60_exceptions R154). -/
theorem faultStatus_toNat : Config.faultStatus.toNat = Config.faultStatusPred.val + 1 := by
  have := Config.faultStatusPred.isLt
  simp [Config.faultStatus]; omega

/-- This hardware's parameters are legal (00_scope R4). -/
theorem params_legal : Config.params.legal := by
  intro h
  have := congrArg BitVec.toNat h
  rw [show Config.params.faultStatus = Config.faultStatus from rfl, faultStatus_toNat] at this
  simp at this

end Sys2Proof.Machine
end

