-- ==== Sys2Proof/Laws/Prims.lean ====
section
/-! SUPPORT. What a primitive can do, said once, and the inversion of the operations that surround it. -/

namespace Sys2Proof.Machine

/-- The effects a primitive that does not fault can have. -/
inductive PrimEffect (s : State) : State → Prop where
  | read (v : Value) : PrimEffect s { s with ret := v }
  | pushed (b : Byte) (h : s.sp + 1 < s.cfg.stackSize) :
      PrimEffect s { s with sp := s.sp + 1, stack := s.stack.write (s.sp + 1) b, ret := .unit }
  | spMoved (k : Nat) (v : Value) (h : k < s.cfg.stackSize) : PrimEffect s { s with sp := k, ret := v }
  | heapWritten (a : Nat) (b : Byte) (h : a < s.cfg.heapSize) :
      PrimEffect s { s with heap := s.heap.write a b, ret := .unit }
  | regWritten (i : Fin 4) (v : Nat) (h : v < 2 ^ s.cfg.archBits) : PrimEffect s { s.setReg i v with ret := .unit }
  | jumped (k : Nat) (h : k < s.program.length ∨ ∃ l, s.flag.lookup l = some k) :
      PrimEffect s { s.jump k with ret := .unit }
  | haltSet (v : HaltWord) : PrimEffect s { s with halt := v, ret := .unit }

/-- A primitive is performed in a cycle, and either raises or has one of those effects. -/
theorem perform_cases {p : Prim} {s t : State} (h : perform p s = .next t) :
    s.fsm = .running ∧ ((∃ m, m ≠ MsgId.none ∧ t = s.raise m) ∨ PrimEffect s t) := by
  cases p with
  | push v =>
    obtain ⟨hr, h⟩ := inCycle_next.mp h
    refine ⟨hr, ?_⟩
    split at h <;> cases h
    · exact .inl ⟨_, by decide, rfl⟩
    · exact .inr (.pushed v (by omega))
  | pop =>
    obtain ⟨hr, h⟩ := inCycle_next.mp h
    refine ⟨hr, ?_⟩
    split at h
    · cases h; exact .inl ⟨_, by decide, rfl⟩
    · split at h <;> cases h
      exact .inr (.spMoved _ _ (by omega))
  | setsp v =>
    obtain ⟨hr, h⟩ := inCycle_next.mp h
    refine ⟨hr, ?_⟩
    cases h
    rcases State.unless_cases s { s with sp := v.toNat, ret := .unit } (s.spTest v) with ⟨h0, e⟩ | ⟨m, h0, e⟩ <;> rw [e]
    · have := rangeTest_none.mp h0
      exact .inr (.spMoved _ _ (by omega))
    · rcases rangeTest_some.mp h0 with ⟨-, rfl⟩ | ⟨-, rfl⟩ <;> exact .inl ⟨_, by decide, rfl⟩
  | getsp => obtain ⟨hr, h⟩ := inCycle_next.mp h; cases h; exact ⟨hr, .inr (.read _)⟩
  | heaprd a =>
    obtain ⟨hr, h⟩ := inCycle_next.mp h
    refine ⟨hr, ?_⟩
    cases h
    rcases State.unless_cases s { s with ret := .byte (s.heapAt a.toNat) } (s.heapTest a) with ⟨h0, e⟩ | ⟨m, h0, e⟩ <;> rw [e]
    · exact .inr (.read _)
    · rcases rangeTest_some.mp h0 with ⟨-, rfl⟩ | ⟨-, rfl⟩ <;> exact .inl ⟨_, by decide, rfl⟩
  | heapwr a v =>
    obtain ⟨hr, h⟩ := inCycle_next.mp h
    refine ⟨hr, ?_⟩
    cases h
    rcases State.unless_cases s { s with heap := s.heap.write a.toNat v, ret := .unit } (s.heapTest a) with ⟨h0, e⟩ | ⟨m, h0, e⟩
      <;> rw [e]
    · have := rangeTest_none.mp h0
      exact .inr (.heapWritten _ _ (by omega))
    · rcases rangeTest_some.mp h0 with ⟨-, rfl⟩ | ⟨-, rfl⟩ <;> exact .inl ⟨_, by decide, rfl⟩
  | setreg i v =>
    obtain ⟨hr, h⟩ := inCycle_next.mp h
    refine ⟨hr, ?_⟩
    split at h
    · cases h; exact .inl ⟨_, by decide, rfl⟩
    · split at h <;> cases h
      · exact .inl ⟨_, by decide, rfl⟩
      · exact .inr (.regWritten _ _ (by omega))
  | getreg i =>
    obtain ⟨hr, h⟩ := inCycle_next.mp h
    refine ⟨hr, ?_⟩
    split at h <;> cases h
    · exact .inl ⟨_, by decide, rfl⟩
    · exact .inr (.read _)
  | lookup l => obtain ⟨hr, h⟩ := inCycle_next.mp h; cases h; exact ⟨hr, .inr (.read _)⟩
  | setip k =>
    obtain ⟨hr, h⟩ := inCycle_next.mp h
    refine ⟨hr, ?_⟩
    split at h <;> cases h
    · exact .inl ⟨_, by decide, rfl⟩
    · exact .inr (.jumped _ (.inl (by omega)))
  | getip => obtain ⟨hr, h⟩ := inCycle_next.mp h; cases h; exact ⟨hr, .inr (.read _)⟩
  | jmpflag l =>
    obtain ⟨hr, h⟩ := inCycle_next.mp h
    refine ⟨hr, ?_⟩
    split at h <;> cases h
    · exact .inl ⟨_, by decide, rfl⟩
    · next k hk => exact .inr (.jumped _ (.inr ⟨l, hk⟩))
  | sethalt v => obtain ⟨hr, h⟩ := inCycle_next.mp h; cases h; exact ⟨hr, .inr (.haltSet v)⟩
  | operand j =>
    obtain ⟨hr, h⟩ := inCycle_next.mp h
    refine ⟨hr, ?_⟩
    split at h <;> cases h
    · exact .inl ⟨_, by decide, rfl⟩
    · exact .inr (.read _)

/-- A primitive performed in a cycle answers a next state, but for a POP of a cell that does not exist (log 12). -/
theorem perform_answers (p : Prim) {s : State} (hr : s.fsm = .running) (hsp : s.sp < s.cfg.stackSize) :
    ∃ t, perform p s = .next t := by
  cases p
  case pop =>
    by_cases h0 : s.sp = 0
    · exact ⟨_, by simp only [perform, execPop, inCycle_running hr, if_pos h0]; rfl⟩
    · exact ⟨_, by simp only [perform, execPop, inCycle_running hr, if_neg h0, if_pos hsp]; rfl⟩
  all_goals exact ⟨_, inCycle_running hr _⟩

/-- A primitive invoked by a handler is its instruction. -/
theorem perform_eq_exec (p : Prim) (s : State) : perform p s = exec (instrOf p) s := by cases p <;> rfl

/-- A property that every effect of a primitive keeps, and that a raise keeps, is kept by every handler (44_fetch_execute
R121). -/
theorem runHandler_induction {P : State → Prop}
    (hraise : ∀ s m, P s → m ≠ MsgId.none → s.fsm = .running → P (s.raise m))
    (heffect : ∀ s t, P s → s.fsm = .running → PrimEffect s t → P t) :
    ∀ (h : Handler) (s t : State), P s → runHandler h s = .next t → P t := by
  intro h
  induction h with
  | done => intro s t hs ht; cases ht; exact hs
  | call p k ih =>
    intro s t hs ht
    obtain ⟨u, hu, ho⟩ := whileRunning_next.mp ht
    have hP : P u := by
      obtain ⟨hr, ⟨m, hm, rfl⟩ | he⟩ := perform_cases hu
      · exact hraise s m hs hm hr
      · exact heffect s u hs hr he
    rcases ho with ⟨-, hk⟩ | ⟨-, rfl⟩
    · exact ih u.ret u t hP hk
    · exact hP

/-- A dispatch that answers a next state, under any table (44_fetch_execute R116): a miss, a handler that ended the run, or a
handler and FINISH. -/
theorem dispatchUnder_cases {table : OpTable} {s t : State} (h : dispatchUnder table s = .next t) :
    s.fsm = .running ∧
      (t = s.raise .unknownOpcode ∨
        ∃ hd u, runHandler hd s = .next u ∧ ((u.fsm = .running ∧ t = u.finish) ∨ (u.fsm ≠ .running ∧ t = u))) := by
  obtain ⟨hr, h⟩ := inCycle_next.mp h
  refine ⟨hr, ?_⟩
  split at h
  · cases h
  · split at h
    · cases h; exact .inl rfl
    · obtain ⟨u, hu, ⟨hur, hf⟩ | ⟨hur, rfl⟩⟩ := whileRunning_next.mp h
      · obtain ⟨-, hf⟩ := inCycle_next.mp hf
        cases hf; exact .inr ⟨_, u, hu, .inl ⟨hur, rfl⟩⟩
      · exact .inr ⟨_, u, hu, .inr ⟨hur, rfl⟩⟩

/-- A dispatch under the table the parameters describe, in terms of the description (44_fetch_execute R116). -/
theorem execDispatch_eq {s : State} {b : Byte} {r : List Byte} (hr : s.fsm = .running) (hf : s.frame = b :: r) :
    execDispatch s = match opcodeEntry? s.params b with
      | none => .next (s.raise .unknownOpcode)
      | some d => whileRunning execFinish (runHandler (handlerOf (b :: r) d) s) := by
  simp only [execDispatch, dispatchUnder, inCycle_running hr, hf]
  by_cases hb : b = s.params.flagId
  · simp [opcodeEntry?, hb]
  · rw [if_neg hb]
    cases he : opcodeEntry? s.params b <;> simp [opTable, he]

/-- What a cycle does with its frame: an advance, or the dispatch of it (44_fetch_execute R113). -/
theorem runFrameUnder_cases {table : OpTable} {f : Frame} {s t : State} (hf : s.frame = f)
    (h : runFrameUnder table f s = .next t) : s.fsm = .running ∧ (t = s.advance ∨ dispatchUnder table s = .next t) := by
  unfold runFrameUnder at h
  split at h
  · obtain ⟨hr, h⟩ := inCycle_next.mp h; cases h; exact ⟨hr, .inl rfl⟩
  · obtain ⟨hr, h⟩ := inCycle_next.mp h; cases h; exact ⟨hr, .inl rfl⟩
  · have hs : { s with frame := f } = s := by rw [← hf]
    rw [hs] at h
    exact ⟨(dispatchUnder_cases h).1, .inr h⟩

/-- Every handler, whatever it is, answers a next state when it is performed in a run with the stack pointer in the stack
(44_fetch_execute R121 clause 4). -/
theorem runHandler_answers :
    ∀ (h : Handler) (s : State), s.fsm = .running → s.sp < s.cfg.stackSize → ∃ t, runHandler h s = .next t := by
  intro h
  induction h with
  | done => exact fun s _ _ => ⟨s, rfl⟩
  | call p k ih =>
    intro s hr hsp
    obtain ⟨u, hu⟩ := perform_answers p hr hsp
    obtain ⟨-, ⟨m, -, rfl⟩ | he⟩ := perform_cases hu
    · exact ⟨_, whileRunning_next.mpr ⟨_, hu, .inr ⟨by simp, rfl⟩⟩⟩
    · have hu' : u.fsm = .running ∧ u.sp < u.cfg.stackSize := by cases he <;> exact ⟨hr, by assumption⟩
      obtain ⟨t, ht⟩ := ih u.ret u hu'.1 hu'.2
      exact ⟨t, whileRunning_next.mpr ⟨u, hu, .inl ⟨hu'.1, ht⟩⟩⟩

/-- A dispatch in a run answers a next state, under any table. -/
theorem dispatchUnder_answers (table : OpTable) {s : State} (hr : s.fsm = .running) (hsp : s.sp < s.cfg.stackSize)
    (hf : s.frame ≠ []) : ∃ t, dispatchUnder table s = .next t := by
  unfold dispatchUnder
  rw [inCycle_running hr]
  split
  · next h => exact absurd h hf
  · split
    · exact ⟨_, rfl⟩
    · next h _ =>
      obtain ⟨u, hu⟩ := runHandler_answers (h s.frame) s hr hsp
      rw [hu]
      by_cases hur : u.fsm = .running
      · exact ⟨_, (whileRunning_running hur).trans (inCycle_running hur _)⟩
      · exact ⟨_, whileRunning_ended hur⟩

/-- A decoded frame is performed as the class of the frame says (44_fetch_execute R113). -/
theorem exec_decoded_frame {f : Frame} {i : Instr} {s : State} (hd : decodeFrame s.params.flagId f = .ok i) :
    exec i s = runFrame f s := by
  unfold decodeFrame at hd
  split at hd
  · cases hd; rfl
  · split at hd
    · split at hd
      · cases hd
      · split at hd <;> cases hd
        simp [runFrame, runFrameUnder, classify, *, exec, execFlag]
    · cases hd; simp [runFrame, runFrameUnder, classify, *, exec, execOp, execDispatch]

/-- A step while Running is one cycle, and RESULT to the host when it ends the run (44_fetch_execute R110, R113, R129). -/
theorem step_running {s : State} {f : Frame} (h : s.fsm = .running) (hf : s.fetch? = some f) :
    step s = mapNext (fun t => t.endCycle.deliver t.reply) (runFrame f (s.beginCycle f)) := by
  simp only [step, h, hf]
  split
  · next i hd => rw [exec_decoded_frame (s := s.beginCycle f) hd]
  · rfl

/-- A cycle with a frame at `ip` (44_fetch_execute R113). -/
theorem execCycle_running {s : State} {f : Frame} (hr : s.fsm = .running) (hf : s.fetch? = some f) :
    execCycle s = mapNext State.endCycle (runFrame f (s.beginCycle f)) := by
  simp only [execCycle, cycleUnder, inCycle_running hr, hf]
  rfl

/-- A running step that answers a next state has fetched a frame. -/
theorem step_running_fetches {s t : State} (h : s.fsm = .running) (ht : step s = .next t) : ∃ f, s.fetch? = some f := by
  cases hf : s.fetch? with
  | none => simp [step, h, hf] at ht
  | some f => exact ⟨f, rfl⟩

end Sys2Proof.Machine
end

