-- ==== Sys2Proof/Laws/Exec.lean ====
section
/-! SUPPORT. The inversion of exec: everything an operation that answers a next state can have done, one case for each shared
operation. Proofs over all instructions take `exec_cases` apart and never unfold exec. -/

namespace Sys2Proof.Machine

/-- How `exec i s` comes to answer `t`. -/
inductive ExecEffect (s : State) : Instr → State → Prop where
  | primitive (p : Prim) {i : Instr} {t : State} (hi : i = instrOf p) (h : perform p s = .next t) : ExecEffect s i t
  | empty (hr : s.fsm = .running) : ExecEffect s .empty s.advance
  | flag (l : Byte) (x : List Byte) (hr : s.fsm = .running) : ExecEffect s (.flag l x) s.advance
  | advance (hr : s.fsm = .running) : ExecEffect s .advance s.advance
  | finish (hr : s.fsm = .running) : ExecEffect s .finish s.finish
  | op (b : Byte) (r : List Byte) {t : State} (h : execDispatch { s with frame := b :: r } = .next t) :
      ExecEffect s (.op b r) t
  | dispatch {t : State} (h : execDispatch s = .next t) : ExecEffect s .dispatch t
  | cycle {f : Frame} {u : State} (hr : s.fsm = .running) (hf : s.fetch? = some f)
      (h : runFrame f (s.beginCycle f) = .next u) : ExecEffect s .cycle u.endCycle
  | rebuild (hr : s.fsm = .ready ∨ s.fsm = .running) : ExecEffect s .rebuild s.rebuild
  | enter (hr : s.fsm = .ready) : ExecEffect s .enter s.enter
  | result {r : Reply} (hr : s.result? = some r) : ExecEffect s .result { s with reply := r }
  | refused {i : Instr} (h : isHostCommand i = true) : ExecEffect s i s.refuse
  | initialized (a h k : Int) (hr : s.fsm ≠ .running) (hc : a ≥ 1 ∧ h ≥ 0 ∧ k ≥ 1) :
      ExecEffect s (.init a h k)
        (s.initialized { archBits := a.toNat, heapSize := h.toNat, stackSize := k.toNat })
  | attach (p : Program) (hr : s.fsm = .ready) (hp : p.length < 2 ^ 32) :
      ExecEffect s (.attach p) ((State.rebuild { s with program := p, ip := 0 }).deliver .done)
  | run (hr : s.fsm = .ready) (hp : s.program ≠ []) : ExecEffect s .run (s.enter.deliver .none)
  | runEmpty (hr : s.fsm = .ready) (hp : s.program = []) : ExecEffect s .run ((s.raise .emptyProgram).deliver .none)
  | runp (p : Program) (hr : s.fsm = .ready) (hp : p.length < 2 ^ 32) (hne : p ≠ []) :
      ExecEffect s (.runp p) ((State.enter { s with program := p }).deliver .none)
  | runpEmpty (hr : s.fsm = .ready) : ExecEffect s (.runp []) ((s.raise .emptyProgram).deliver .none)
  | snapshot (hr : s.fsm ≠ .off) : ExecEffect s .snapshot { s with reply := .snapshot s.observe }

/-- The inversion. -/
theorem exec_cases {i : Instr} {s t : State} (h : exec i s = .next t) : ExecEffect s i t := by
  cases i with
  | empty => obtain ⟨hr, h⟩ := inCycle_next.mp h; cases h; exact .empty hr
  | flag l x => obtain ⟨hr, h⟩ := inCycle_next.mp h; cases h; exact .flag l x hr
  | op b r => exact .op b r h
  | init a hp k =>
    simp only [exec, execInitialize] at h
    split at h <;> cases h
    · next hc => exact .initialized a hp k hc.1 (legalConfig_iff.mp hc.2)
    · exact .refused rfl
  | attach p =>
    simp only [exec, execAttach] at h
    split at h <;> cases h
    · next hc => exact .attach p hc.1 (fits_iff.mp hc.2)
    · exact .refused rfl
  | run =>
    simp only [exec, execRun] at h
    split at h
    · next hr =>
      split at h <;> cases h
      · next he => exact .runEmpty hr (List.length_eq_zero_iff.mp he)
      · next he => exact .run hr (fun hn => he (by rw [hn]; rfl))
    · cases h; exact .refused rfl
  | runp p =>
    simp only [exec, execRunp] at h
    split at h
    · next hc =>
      split at h <;> cases h
      · next he =>
        obtain rfl : p = [] := List.length_eq_zero_iff.mp he
        exact .runpEmpty hc.1
      · next he => exact .runp p hc.1 (fits_iff.mp hc.2) (fun hn => he (by rw [hn]; rfl))
    · cases h; exact .refused rfl
  | snapshot =>
    simp only [exec, execSnapshot] at h
    split at h <;> cases h
    · exact .refused rfl
    · next hr => exact .snapshot hr
  | rebuild =>
    simp only [exec, execRebuild] at h
    split at h <;> cases h
    · next hr => exact .rebuild (.inl hr)
    · next hr => exact .rebuild (.inr hr)
  | enter =>
    simp only [exec, execEnter] at h
    split at h <;> cases h
    next hr => exact .enter hr
  | cycle =>
    obtain ⟨hr, h⟩ := inCycle_next.mp h
    split at h
    · cases h
    · next f hf =>
      obtain ⟨u, hu, rfl⟩ := mapNext_next.mp h
      exact .cycle hr hf hu
  | dispatch => exact .dispatch h
  | finish => obtain ⟨hr, h⟩ := inCycle_next.mp h; cases h; exact .finish hr
  | advance => obtain ⟨hr, h⟩ := inCycle_next.mp h; cases h; exact .advance hr
  | result =>
    simp only [exec, execResult] at h
    split at h <;> cases h
    next r hr => exact .result hr
  | push v => exact .primitive (.push v) rfl h
  | pop => exact .primitive .pop rfl h
  | setsp v => exact .primitive (.setsp v) rfl h
  | getsp => exact .primitive .getsp rfl h
  | heaprd a => exact .primitive (.heaprd a) rfl h
  | heapwr a v => exact .primitive (.heapwr a v) rfl h
  | setreg k v => exact .primitive (.setreg k v) rfl h
  | getreg k => exact .primitive (.getreg k) rfl h
  | lookup l => exact .primitive (.lookup l) rfl h
  | setip k => exact .primitive (.setip k) rfl h
  | getip => exact .primitive .getip rfl h
  | jmpflag l => exact .primitive (.jmpflag l) rfl h
  | sethalt v => exact .primitive (.sethalt v) rfl h
  | operand j => exact .primitive (.operand j) rfl h

/-- A property that every primitive's effect, every raise, an advance and a halt keep is kept by a dispatch, under any table
(44_fetch_execute R116). -/
theorem dispatchUnder_induction {P : State → Prop}
    (hraise : ∀ s m, P s → m ≠ MsgId.none → s.fsm = .running → P (s.raise m))
    (heffect : ∀ s t, P s → s.fsm = .running → PrimEffect s t → P t)
    (hadvance : ∀ s, P s → s.fsm = .running → s.ip + 1 < s.program.length → P { s with ip := s.ip + 1 })
    (hhalt : ∀ s, P s → s.fsm = .running → s.halt ≠ 0 → P { s with cycles := s.cycles + 1, fsm := .halted })
    {table : OpTable} {s t : State} (hs : P s) (h : dispatchUnder table s = .next t) : P t := by
  obtain ⟨hr, rfl | ⟨hd, u, hu, ⟨hur, rfl⟩ | ⟨-, rfl⟩⟩⟩ := dispatchUnder_cases h
  · exact hraise s _ hs (by decide) hr
  · have hP := runHandler_induction hraise heffect hd s u hs hu
    rcases u.finish_cases with ⟨hh, e⟩ | ⟨-, -, e⟩ | ⟨-, -, e⟩ <;> rw [e]
    · exact hhalt u hP hur hh
    · exact hP
    · rcases u.advance_cases with ⟨hl, e⟩ | ⟨-, e⟩ <;> rw [e]
      · exact hadvance u hP hur hl
      · exact hraise u _ hP (by decide) hur
  · exact runHandler_induction hraise heffect hd s t hs hu

end Sys2Proof.Machine
end

