-- ==== Sys2Proof/Laws/PerInstr.lean ====
section
/-! SUPPORT. A law stated for each constructor of Instr: what an instruction's encoding decodes to. -/

namespace Sys2Proof.Laws.Codec

/-- The frame of a well-formed instruction decodes to that instruction (30_encoding R63, R64, R65); the operations without an
encoding have no frame (30_encoding R71). -/
def Statement (i : Instr) : Prop :=
  ∀ (flagId : Byte) (f : Frame), encodeFrame flagId i = some f → i.wellFormed flagId = true → decodeFrame flagId f = .ok i

/-- An instruction without an encoding. -/
theorem of_no_frame {i : Instr} (h : ∀ flagId, encodeFrame flagId i = none) : Statement i := by
  intro flagId f hf
  rw [h flagId] at hf
  cases hf

theorem empty : Statement .empty := by
  intro flagId f hf _
  cases hf
  rfl

theorem flag (label : Byte) (extra : List Byte) : Statement (.flag label extra) := by
  intro flagId f hf hw
  cases hf
  simp [decodeFrame, of_decide_eq_true hw]

theorem op (opcode : Byte) (operands : List Byte) : Statement (.op opcode operands) := by
  intro flagId f hf hw
  cases hf
  simp [decodeFrame, of_decide_eq_true hw]

theorem init (archBits : Int) (heapSize : Int) (stackSize : Int) :
    Statement (.init archBits heapSize stackSize) := of_no_frame fun _ => rfl

theorem attach (program : Program) : Statement (.attach program) := of_no_frame fun _ => rfl

theorem run : Statement .run := of_no_frame fun _ => rfl

theorem runp (program : Program) : Statement (.runp program) := of_no_frame fun _ => rfl

theorem snapshot : Statement .snapshot := of_no_frame fun _ => rfl

theorem rebuild : Statement .rebuild := of_no_frame fun _ => rfl

theorem enter : Statement .enter := of_no_frame fun _ => rfl

theorem cycle : Statement .cycle := of_no_frame fun _ => rfl

theorem dispatch : Statement .dispatch := of_no_frame fun _ => rfl

theorem finish : Statement .finish := of_no_frame fun _ => rfl

theorem advance : Statement .advance := of_no_frame fun _ => rfl

theorem result : Statement .result := of_no_frame fun _ => rfl

theorem push (value : Byte) : Statement (.push value) := of_no_frame fun _ => rfl

theorem pop : Statement .pop := of_no_frame fun _ => rfl

theorem setsp (value : Int) : Statement (.setsp value) := of_no_frame fun _ => rfl

theorem getsp : Statement .getsp := of_no_frame fun _ => rfl

theorem heaprd (addr : Int) : Statement (.heaprd addr) := of_no_frame fun _ => rfl

theorem heapwr (addr : Int) (value : Byte) : Statement (.heapwr addr value) := of_no_frame fun _ => rfl

theorem setreg (index : RegIndex) (value : Nat) : Statement (.setreg index value) := of_no_frame fun _ => rfl

theorem getreg (index : RegIndex) : Statement (.getreg index) := of_no_frame fun _ => rfl

theorem lookup (label : Byte) : Statement (.lookup label) := of_no_frame fun _ => rfl

theorem setip (target : Nat) : Statement (.setip target) := of_no_frame fun _ => rfl

theorem getip : Statement .getip := of_no_frame fun _ => rfl

theorem jmpflag (label : Byte) : Statement (.jmpflag label) := of_no_frame fun _ => rfl

theorem sethalt (value : HaltWord) : Statement (.sethalt value) := of_no_frame fun _ => rfl

theorem operand (j : Nat) : Statement (.operand j) := of_no_frame fun _ => rfl

end Sys2Proof.Laws.Codec
end

