-- ==== Sys2Proof/Tests/Slice0.lean ====
section
/-! SUPPORT. Tests. Expected results come from the vectors of spec/95_test_vectors.md (their ids stand in the comments) and
from its fixture `T_demo`, an opcode table the spec made up to exercise the core; it is no part of the hardware. The last part
shows for each obligation with hypotheses a state and operands that meet them. -/

namespace Sys2Proof.Machine.Tests

/-! ### The fixture (95_test_vectors section 2) -/

/-- One primitive of a handler, and what follows it. -/
abbrev say (p : PrimName) (a b : Expr) (k : Script) : Script := .seq (.call p a b) k

/-- `OPERAND(j)`. -/
abbrev arg (j : Nat) (k : Script) : Script := say .operand (.lit j) (.lit 0) k

/-- The `i`-th most recent result. -/
abbrev res (i : Nat) : Expr := .result i

def tDemo : List (Byte × HandlerDesc) :=
  [ (0x10, .script .done),
    (0x20, .script .done),
    (0x01, .script (arg 1 (.call .sethalt (res 0) (.lit 0)))),
    (0x02, .script (arg 1 (arg 2 (.call .setreg (res 1) (res 0))))),
    (0x03, .script (arg 1 (say .getreg (res 0) (.lit 0) (.call .push (.mod (res 0) (.lit 256)) (.lit 0))))),
    (0x04, .script (arg 1 (say .pop (.lit 0) (.lit 0) (.call .setreg (res 1) (res 0))))),
    (0x05, .script (arg 1 (say .getreg (res 0) (.lit 0)
      (.call .setreg (res 1) (.mod (.add (res 0) (.lit 4294967295)) (.lit 4294967296)))))),
    (0x06, .script (arg 1 (arg 2 (say .getreg (res 1) (.lit 0)
      (.cond (res 0) (.call .jmpflag (res 1) (.lit 0)) .done))))) ] ++
  [ (0x07, .script (arg 1 (.call .jmpflag (res 0) (.lit 0)))),
    (0x08, .script (arg 1 (arg 2 (say .getreg (res 0) (.lit 0) (.call .heapwr (res 2) (.mod (res 0) (.lit 256))))))),
    (0x09, .script (arg 1 (arg 2 (say .heaprd (res 0) (.lit 0) (.call .setreg (res 2) (res 0)))))),
    (0x0A, .script (arg 1 (.call .setsp (res 0) (.lit 0)))),
    (0x0B, .script (arg 1 (.call .setip (res 0) (.lit 0)))),
    (0x0C, .script (arg 1 (arg 2 (say .sethalt (res 1) (.lit 0) (.call .setip (res 1) (.lit 0)))))),
    (0x0D, .script (arg 1 (say .getreg (res 0) (.lit 0) (.call .setreg (res 1) (.add (res 0) (.lit 1)))))) ]

/-- `Ready` after reset, under `T_demo` and a `FAULT_STATUS` that a test can compare. -/
def ready : State := { State.reset with params := { flagId := 0xFF, optab := tDemo, faultStatus := 0x55 } }

/-- `Ready` with the program in place and its table not yet built. -/
def holding (p : Program) : State := { ready with program := p }

/-- `Running` at the start of the program, under `T_demo`. -/
def running (p : Program) : State :=
  { ready with program := p, fsm := .running, flag := (scanFlags 0xFF p 0 FlagTable.clear).1 }

/-- What holds of the next state, if there is one. -/
def look (o : Out) (p : State → Bool) : Bool :=
  match o with
  | .next t => p t
  | .fault _ => false
  | .refused _ => false

/-- A fault with its kind, message and the code numbers of 60_exceptions R141 and R143. -/
def faultedWith (t : State) (kind msg : Nat) : Bool :=
  t.fsm == .faulted && t.fault.kind.code == kind && t.fault.msg.code == msg

/-! ### Well-formedness -/

theorem test_wf_flag_label : Instr.wellFormed 0xFF (.flag 0xFF []) = false := by decide
theorem test_wf_opcode : Instr.wellFormed 0xFF (.op 0xFF [0x01]) = false := by decide
/-- R61: a program of `n` empty frames with `n` not below `2^IP_W`. -/
theorem too_long (n : Nat) (hn : Config.programLimit ≤ n) : Program.fits (List.replicate n []) = false :=
  decide_eq_false (by rw [List.length_replicate]; exact Nat.not_lt.mpr hn)
theorem test_wf_attach_length : Instr.wellFormed 0xFF (.attach (List.replicate Config.programLimit [])) = false :=
  too_long _ (Nat.le_refl _)
theorem test_wf_runp_length : Instr.wellFormed 0xFF (.runp (List.replicate Config.programLimit [])) = false :=
  too_long _ (Nat.le_refl _)
theorem test_wf_accepts : Instr.wellFormed 0xFF (.flag 0x00 [0xFF]) = true ∧ Instr.wellFormed 0xFF (.op 0x00 []) = true ∧
    Instr.wellFormed 0xFF (.attach [[0xFF]]) = true := by decide

/-! ### Decoding: words written out from the encodings of 30_encoding -/

/-- R63: no byte at all. -/
theorem test_decode_empty : decodeTableWord 0 0 = some .empty := by decide
/-- R64: `11111111 llllllll` with label 0xA5; byte 0 is the low byte of the word. -/
theorem test_decode_flag : decodeTableWord 16 0b1010010111111111 = some (.flag 0xA5 []) := by decide
/-- R65: `oooooooo ...`: opcode 0x02, operands 0x00 and 0x03 (95, P2 frame 0). -/
theorem test_decode_op : decodeTableWord 24 0b000000110000000000000010 = some (.op 0x02 [0x00, 0x03]) := by decide
/-- T10: `FLAG_ID` outside position 0 has no meaning. -/
theorem test_decode_flag_id_inside : decodeFrame 0xFF [0x10, 0xFF, 0x01] = .ok (.op 0x10 [0xFF, 0x01]) := by rfl
/-- R68 items 2 and 3. -/
theorem test_decode_malformed :
    decodeFrame 0xFF [0xFF] = .error .flagNoLabel ∧ decodeFrame 0xFF [0xFF, 0xFF, 0x01] = .error .flagAdjacent := ⟨rfl, rfl⟩
/-- Another `FLAG_ID` makes 0xFF an opcode. -/
theorem test_decode_other_flag_id : decodeFrame 0x7E [0xFF, 0x01] = .ok (.op 0xFF [0x01]) := by rfl
theorem test_encode : encodeFrame 0xFF (.flag 0x01 [0x99]) = some [0xFF, 0x01, 0x99] ∧
    encodeFrame 0xFF (.op 0x0C [0x09, 0x01]) = some [0x0C, 0x09, 0x01] ∧ encodeFrame 0xFF .empty = some [] ∧
    encodeFrame 0xFF .pop = none := by decide
/-- The error names the index of the first offending frame (T6, T7). -/
theorem test_decode_program_index :
    decodeProgram 0xFF [[0xFF, 0x02], [0xFF]] = .error (1, .flagNoLabel) := by rfl

/-! ### Frames and cycles -/

/-- X1 -/
theorem test_empty_advances :
    look (step (running [[], [0x10]])) (fun t => t.ip == 1 && t.cycles == 1 && t.fsm == .running) := by decide
/-- X18 -/
theorem test_empty_last_frame :
    look (exec .empty { running [[0x10], []] with ip := 1, cycles := 1 })
      (fun t => faultedWith t 6 10 && t.ip == 1 && t.cycles == 1) := by decide
/-- X2 -/
theorem test_flag_skipped :
    look (step (running [[0xFF, 0x01], [0x10]])) (fun t => t.ip == 1 && t.cycles == 1 && t.flag.lookup 0x01 == some 0) := by
  decide
/-- X19 -/
theorem test_flag_last_frame :
    look (step { running [[0x10], [0xFF, 0x01]] with ip := 1, cycles := 1 })
      (fun t => faultedWith t 6 10 && t.ip == 1 && t.cycles == 1) := by decide
/-- X4, P0 -/
theorem test_op_halts :
    look (step (running [[0x01, 0x05]]))
      (fun t => t.halt == 5 && t.fsm == .halted && t.ip == 0 && t.cycles == 1 && t.reply == .ok 5) := by decide
/-- X6 -/
theorem test_op_unbound :
    look (step (running [[0x77], [0x01, 0x01]])) (fun t => faultedWith t 9 16 && t.ip == 0 && t.cycles == 0) := by decide
/-- X22: the earlier effect of an abandoned handler stays. -/
theorem test_cycle_keeps_earlier_effects :
    look (exec .cycle { running [[0x04, 0x07]] with sp := 1, stack := [(1, 0x33)] })
      (fun t => faultedWith t 7 13 && t.sp == 0 && t.cycles == 0) := by decide
/-- 00_scope R4: an instance with another `FAULT_STATUS` reports it (X3's fault). -/
theorem test_fault_status_is_the_instances :
    look (exec .advance { running [[0x10]] with params := { flagId := 0xFF, optab := [], faultStatus := 0x7 } })
      (fun t => faultedWith t 6 10 && t.fault.status == 0x7) := by decide
/-- R121 clauses 4 and 5: a handler that reads a count from its frame and pushes 9 that often (R90 three times). -/
def pushTimes : Script :=
  arg 1 (arg 2 (.seq (.assign 0 (res 1)) (.loop (.var 0) (.var 0)
    (.seq (.call .push (.lit 9) (.lit 0)) (.assign 0 (.sub (.var 0) (.lit 1)))))))
theorem test_handler_loops :
    look (runHandler (handlerOf [0x30, 0x03, 0x09] (.script pushTimes)) { running [[0x10]] with frame := [0x30, 0x03, 0x09] })
      (fun t => t.sp == 3 && t.stack == [(1, 9), (2, 9), (3, 9)] && t.fsm == .running) := by decide
/-- X10 -/
theorem test_cycle_jump :
    look (exec .cycle (running [[0x0B, 0x02], [0x10], [0x01, 0x01]]))
      (fun t => t.ip == 2 && t.cycles == 1 && t.fsm == .running) := by decide
/-- X16: the fault wins over the halt signal. -/
theorem test_dispatch_fault_before_halt :
    look (exec .dispatch { running [[0x0C, 0x09, 0x05], [0x10]] with frame := [0x0C, 0x09, 0x05] })
      (fun t => faultedWith t 6 11 && t.halt == 9) := by decide
/-- G13: the core does not wrap. -/
theorem test_dispatch_increment_overflows :
    look (exec .dispatch { running [[0x0D, 0x00]] with frame := [0x0D, 0x00], regs := #v[0xFFFFFFFF, 0, 0, 0] })
      (fun t => faultedWith t 8 15 && t.getReg 0 == 0xFFFFFFFF) := by decide
/-- X15: no advance when halting, and `ip` stays where the handler left it. -/
theorem test_finish_halts :
    look (exec .finish { running [[0x0C, 0x09, 0x01], [0x10]] with halt := 9, ip := 1, ipWritten := true })
      (fun t => t.fsm == .halted && t.halt == 9 && t.ip == 1 && t.cycles == 1) := by decide
/-- X12: a jump to `ip` itself suppresses the advance. -/
theorem test_finish_after_jump :
    look (exec .finish { running [[0x0B, 0x00]] with ipWritten := true }) (fun t => t.ip == 0 && t.fsm == .running) := by
  decide
/-- X3 -/
theorem test_advance_off_the_end :
    look (exec .advance (running [[0x10]])) (fun t => faultedWith t 6 10 && t.ip == 0 && t.cycles == 0) := by decide
/-- R129 with X4 -/
theorem test_result_of_halt :
    look (exec .result { running [[0x01, 0x05]] with fsm := .halted, halt := 5 }) (fun t => t.reply == .ok 5) := by decide

/-! ### Host commands and the table -/

/-- W11 -/
theorem test_init_smallest :
    look (exec (.init 32 0 1) { running [[0x10]] with fsm := .faulted, sp := 3 })
      (fun t => t.fsm == .ready && t.cfg.heapSize == 0 && t.cfg.stackSize == 1 && t.sp == 0 && t.program == []) := by decide
/-- W10 -/
theorem test_init_refused :
    look (exec (.init 32 (-1) 256) { ready with sp := 3 }) (fun t => t.sp == 3 && t.reply == .refused) := by decide
/-- T3: the last declaration wins. -/
theorem test_attach_last_wins :
    look (exec (.attach [[0xFF, 0x05], [0x10], [0xFF, 0x05]]) ready)
      (fun t => t.flag.lookup 0x05 == some 2 && t.flag.lookup 0x10 == none && t.fsm == .ready) := by decide
/-- T7: the table built before the offending frame. -/
theorem test_attach_malformed :
    look (exec (.attach [[0xFF, 0x02], [0xFF]]) ready)
      (fun t => faultedWith t 2 2 && t.flag.lookup 0x02 == some 0 && t.program == [[0xFF, 0x02], [0xFF]]) := by decide
/-- W1 -/
theorem test_run_empty_program :
    look (exec .run ready) (fun t => faultedWith t 1 1 && t.ip == 0 && t.sp == 0 && t.cycles == 0) := by decide
/-- W6: RUN after a run has ended. -/
theorem test_run_refused_after_halt :
    look (exec .run { holding [[0x01, 0x05]] with fsm := .halted, halt := 5 })
      (fun t => t.fsm == .halted && t.halt == 5 && t.reply == .refused) := by decide
/-- W2 -/
theorem test_runp_empty_keeps_program :
    look (exec (.runp []) (holding [[0x10]])) (fun t => faultedWith t 1 1 && t.program == [[0x10]]) := by decide
/-- P9 -/
theorem test_runp_malformed :
    look (exec (.runp [[0x02, 0x00, 0x01], [0xFF]]) ready)
      (fun t => faultedWith t 2 2 && t.program == [[0x02, 0x00, 0x01], [0xFF]] && t.getReg 0 == 0 && t.cycles == 0) := by decide
/-- W7 -/
theorem test_snapshot_after_halt :
    look (exec .snapshot { holding [[0x01, 0x05]] with fsm := .halted, halt := 5, cycles := 1 })
      (fun t => match t.reply with
        | .snapshot r => r.sp == 0 && r.ip == 0 && r.cycles == 1 && r.fsm == .halted && r.halt == 5 && r.fault.kind == .none
        | _ => false) := by decide
/-- T6: frame 1 is never scanned. -/
theorem test_rebuild_stops_at_first :
    look (exec .rebuild (holding [[0xFF], [0xFF, 0x01]])) (fun t => faultedWith t 2 2 && t.flag.lookup 0x01 == none) := by decide
/-- T8 and T11: successive flag frames, label 0, an empty frame. -/
theorem test_rebuild_successive_flags :
    look (exec .rebuild (holding [[], [0xFF, 0x00], [0xFF, 0x01]]))
      (fun t => t.flag.lookup 0x00 == some 1 && t.flag.lookup 0x01 == some 2 && t.fsm == .ready) := by decide
/-- R111 -/
theorem test_enter_resets_pointers :
    look (exec .enter { holding [[0x10]] with sp := 5, ip := 7 }) (fun t => t.fsm == .running && t.sp == 0 && t.ip == 0) := by
  decide

/-! ### Stack -/

/-- K18: bounded by STACK_SIZE, not by HEAP_SIZE. -/
theorem test_push_beyond_heap_size :
    look (exec (.push 0x01) { running [[0x10]] with sp := 20, cfg := ⟨32, 16, 256⟩ })
      (fun t => t.sp == 21 && t.stackAt 21 == 0x01) := by decide
/-- K4 -/
theorem test_push_overflow :
    look (exec (.push 0x2A) { running [[0x10]] with sp := 255 }) (fun t => faultedWith t 3 4 && t.sp == 255 && t.stack == []) := by
  decide
/-- K7: the cell keeps its byte. -/
theorem test_pop_top :
    look (exec .pop { running [[0x10]] with sp := 1, stack := [(1, 0x07)] })
      (fun t => t.ret == .byte 0x07 && t.sp == 0 && t.stackAt 1 == 0x07) := by decide
/-- K5 -/
theorem test_pop_underflow : look (exec .pop (running [[0x10]])) (fun t => faultedWith t 4 5 && t.sp == 0) := by decide
/-- K10 -/
theorem test_setsp_above :
    look (exec (.setsp 256) { running [[0x10]] with sp := 3 }) (fun t => faultedWith t 5 7 && t.sp == 3) := by decide
/-- K11 -/
theorem test_setsp_below :
    look (exec (.setsp (-1)) { running [[0x10]] with sp := 3 }) (fun t => faultedWith t 5 6 && t.sp == 3) := by decide
/-- K15 -/
theorem test_getsp : look (exec .getsp { running [[0x10]] with sp := 2 }) (fun t => t.ret == .num 2 && t.sp == 2) := by decide

/-! ### Heap -/

/-- H7 -/
theorem test_heaprd_neighbour :
    look (exec (.heaprd 5) { running [[0x10]] with heap := [(5, 0x10), (6, 0x20)] }) (fun t => t.ret == .byte 0x10) := by decide
/-- H5 -/
theorem test_heaprd_negative : look (exec (.heaprd (-1)) (running [[0x10]])) (fun t => faultedWith t 5 8) := by decide
/-- H8 -/
theorem test_heapwr_overwrites :
    look (exec (.heapwr 5 0x11) { running [[0x10]] with heap := [(5, 0x10), (6, 0x20)] })
      (fun t => t.heap == [(5, 0x11), (6, 0x20)]) := by decide
/-- H10 -/
theorem test_heapwr_above :
    look (exec (.heapwr 16 0x01) { running [[0x10]] with cfg := ⟨32, 16, 256⟩ })
      (fun t => faultedWith t 5 9 && t.heap == []) := by decide

/-! ### Registers -/

/-- G5: the index is tested first. -/
theorem test_setreg_index_first :
    look (exec (.setreg 4 0x100000000) (running [[0x10]])) (fun t => faultedWith t 7 13) := by decide
/-- G11: an 8-bit configuration. -/
theorem test_setreg_overflow :
    look (exec (.setreg 0 256) { running [[0x10]] with cfg := ⟨8, 256, 256⟩, regs := #v[255, 0, 0, 0] })
      (fun t => faultedWith t 8 15 && t.getReg 0 == 255) := by decide
/-- G8 -/
theorem test_getreg : look (exec (.getreg 1) { running [[0x10]] with regs := #v[0, 7, 0, 0] }) (fun t => t.ret == .num 7) := by
  decide
/-- G9 -/
theorem test_getreg_index : look (exec (.getreg 9) (running [[0x10]])) (fun t => faultedWith t 7 14) := by decide

/-! ### Control -/

/-- T13 -/
theorem test_lookup_declared :
    look (exec (.lookup 0x01) (running [[0x10], [0xFF, 0x01], [0x20]])) (fun t => t.ret == .entry (some 1)) := by decide
/-- T13 -/
theorem test_lookup_flag_id :
    look (exec (.lookup 0xFF) (running [[0x10], [0xFF, 0x01], [0x20]])) (fun t => t.ret == .entry none) := by decide
/-- X11 -/
theorem test_setip_out_of_program :
    look (exec (.setip 3) (running [[0x0B, 0x03], [0x10], [0x01, 0x01]])) (fun t => faultedWith t 6 11 && t.ip == 0) := by decide
/-- X12 -/
theorem test_setip_to_itself :
    look (exec (.setip 0) (running [[0x0B, 0x00]])) (fun t => t.ip == 0 && t.ipWritten && t.fsm == .running) := by decide
/-- R124 -/
theorem test_getip : look (exec .getip { running [[], [0x10]] with ip := 1 }) (fun t => t.ret == .num 1) := by decide
/-- X14: the target is the flag frame itself. -/
theorem test_jmpflag :
    look (exec (.jmpflag 0x01) (running [[0x07, 0x01], [0x10], [0xFF, 0x01], [0x01, 0x01]]))
      (fun t => t.ip == 2 && t.ipWritten) := by decide
/-- X13 -/
theorem test_jmpflag_undeclared :
    look (exec (.jmpflag 0x02) (running [[0x07, 0x02], [0x01, 0x01]])) (fun t => faultedWith t 6 12 && t.ip == 0) := by decide
/-- X17: a zero signal halts nothing. -/
theorem test_sethalt_zero :
    look (step (running [[0x01, 0x00], [0x01, 0x02]])) (fun t => t.halt == 0 && t.ip == 1 && t.fsm == .running) := by decide
/-- X9 -/
theorem test_operand :
    look (exec (.operand 1) { running [[0x10]] with frame := [0x01, 0x05, 0x66] }) (fun t => t.ret == .byte 0x05) := by decide
/-- X8 -/
theorem test_operand_short :
    look (step (running [[0x01]])) (fun t => faultedWith t 9 17 && t.halt == 0) := by decide

/-! ### A word of the opcode table as the next instruction -/

theorem test_fetch_empty : look (step (State.reset.withFetchWord 0 0)) (fun t => t.ip == 1 && t.cycles == 1) := by decide
theorem test_fetch_flag : look (step (State.reset.withFetchWord 16 0x01FF)) (fun t => t.ip == 1 && t.fsm == .running) := by decide
/-- X5: the default table binds nothing. -/
theorem test_fetch_op : look (step (State.reset.withFetchWord 8 0x10)) (fun t => faultedWith t 9 16 && t.ip == 0) := by decide
/-- W5 through the host's queue: RUNP enters the run. -/
theorem test_step_runs_command :
    look (step { ready with inbox := [.runp [[0x01, 0x05]], .snapshot] })
      (fun t => t.fsm == .running && t.inbox == [.snapshot] && t.program == [[0x01, 0x05]]) := by decide

/-! ### Witnesses: for each obligation with hypotheses, a state and operands that meet them, at boundary values -/

/-- A program with one label, used below: `flag[0x01] = some 1` (S4). -/
def labelled : Program := [[0x10], [0xFF, 0x01], [0x20]]

/-- A program whose frame 1 is a flag frame of length 1 (T7), and one whose frame 1 repeats `FLAG_ID` (T5). -/
def noLabel : Program := [[0xFF, 0x02], [0xFF]]
def adjacent : Program := [[0x10], [0xFF, 0xFF]]

theorem labelled_well_formed : FlagsWellFormed 0xFF labelled := by unfold FlagsWellFormed Malformed; decide
theorem noLabel_first : FirstMalformed 0xFF noLabel 1 [0xFF] ∧ malformedMsg [0xFF] = .flagNoLabel := by
  unfold FirstMalformed FlagsWellFormed Malformed; decide
theorem adjacent_first : FirstMalformed 0xFF adjacent 1 [0xFF, 0xFF] ∧ malformedMsg [0xFF, 0xFF] = .flagAdjacent := by
  unfold FirstMalformed FlagsWellFormed Malformed; decide

theorem witness_InitializeResetsEverything :
    ready.fsm ≠ .running ∧ { ready with fsm := .off }.fsm ≠ .running ∧ (1 : Int) ≥ 1 ∧ (0 : Int) ≥ 0 := by decide
theorem witness_InitializeRefusedChangesNothing :
    (running labelled).fsm = .running ∧ (0 : Int) < 1 ∧ (-1 : Int) < 0 := by decide
theorem witness_InitializeForgetsEarlierRun :
    let s := { ready with fsm := .faulted, sp := 3, regs := #v[1, 2, 3, 4], stack := [(1, 7)] }
    s.fsm ≠ .running ∧ ready.fsm ≠ .running ∧ s.params = ready.params ∧ s.draw = ready.draw ∧ s.inbox = ready.inbox := by
  decide
theorem witness_AttachBuildsTable :
    ready.fsm = .ready ∧ labelled.length < 2 ^ 32 ∧ FlagsWellFormed ready.params.flagId labelled :=
  ⟨rfl, by decide, labelled_well_formed⟩
theorem witness_AttachBuildsTable_malformed :
    ready.fsm = .ready ∧ noLabel.length < 2 ^ 32 ∧ FirstMalformed ready.params.flagId noLabel 1 [0xFF] :=
  ⟨rfl, by decide, noLabel_first.1⟩
theorem witness_AttachBuildsTable_adjacent :
    ready.fsm = .ready ∧ adjacent.length < 2 ^ 32 ∧ FirstMalformed ready.params.flagId adjacent 1 [0xFF, 0xFF] :=
  ⟨rfl, by decide, adjacent_first.1⟩
theorem witness_RunEntersRunning :
    (holding labelled).fsm = .ready ∧ (holding labelled).program ≠ [] ∧ FlagsWellFormed 0xFF (holding labelled).program :=
  ⟨rfl, by decide, labelled_well_formed⟩
theorem witness_RunEntersRunning_malformed :
    (holding adjacent).fsm = .ready ∧ (holding adjacent).program ≠ [] ∧
      FirstMalformed 0xFF (holding adjacent).program 1 [0xFF, 0xFF] := ⟨rfl, by decide, adjacent_first.1⟩
theorem witness_EmptyProgramFaultsBeforeMutation : ready.fsm = .ready ∧ ready.program = [] := by decide
theorem witness_RunpEntersRunning :
    ready.fsm = .ready ∧ labelled ≠ [] ∧ labelled.length < 2 ^ 32 ∧ FlagsWellFormed ready.params.flagId labelled :=
  ⟨rfl, by decide, by decide, labelled_well_formed⟩
theorem witness_RunpEntersRunning_malformed :
    ready.fsm = .ready ∧ noLabel ≠ [] ∧ noLabel.length < 2 ^ 32 ∧ FirstMalformed ready.params.flagId noLabel 1 [0xFF] :=
  ⟨rfl, by decide, by decide, noLabel_first.1⟩
theorem witness_SnapshotShowsSurface : ready.fsm ≠ .off ∧ (running labelled).fsm ≠ .off := by decide
theorem witness_CommandsRefusedOutsideTheirStates :
    (running labelled).fsm ≠ .ready ∧ 2 ^ 32 ≤ (List.replicate Config.programLimit ([] : Frame)).length ∧
      { ready with fsm := .off }.fsm = .off := ⟨by decide, by rw [List.length_replicate]; decide, rfl⟩
theorem witness_HostReachesNoHandlerState :
    isHostCommand .run = true ∧ (∀ a h k, Instr.run ≠ .init a h k) ∧ ∃ t, exec .run (holding labelled) = .next t :=
  ⟨rfl, by intros; simp, _, rfl⟩

theorem witness_RebuildScansInOrder : (holding labelled).fsm = .ready ∧ FlagsWellFormed 0xFF (holding labelled).program :=
  ⟨rfl, labelled_well_formed⟩
theorem witness_RebuildScansInOrder_noLabel :
    (holding noLabel).fsm = .ready ∧ FirstMalformed 0xFF (holding noLabel).program 1 [0xFF] := ⟨rfl, noLabel_first.1⟩
theorem witness_RebuildScansInOrder_adjacent :
    (running adjacent).fsm = .running ∧ FirstMalformed 0xFF (running adjacent).program 1 [0xFF, 0xFF] :=
  ⟨rfl, adjacent_first.1⟩
theorem witness_RebuildScansInOrder_malformed : ¬ FlagsWellFormed 0xFF noLabel := by
  unfold FlagsWellFormed Malformed; decide
theorem witness_EnterResetsPointers :
    (holding labelled).fsm = .ready ∧ FlagsWellFormed 0xFF (holding labelled).program ∧ (holding noLabel).fsm = .ready ∧
      FirstMalformed 0xFF (holding noLabel).program 1 [0xFF] := ⟨rfl, labelled_well_formed, rfl, noLabel_first.1⟩

/-- The last admitted index and the one after it: `ip + 1 < len` at 0 of two frames, `len <= ip + 1` at 0 of one. -/
theorem witness_CycleFetchesClassifiesExecutes_advance :
    (running [[], [0x10]]).fsm = .running ∧ (running [[], [0x10]]).program[0]? = some [] ∧
      (running [[], [0x10]]).ip + 1 < (running [[], [0x10]]).program.length := by decide
theorem witness_CycleFetchesClassifiesExecutes_end :
    (running [[0xFF, 0x01]]).program[0]? = some [0xFF, 0x01] ∧ [0xFF, 0x01].head? = some (0xFF : Byte) ∧
      (running [[0xFF, 0x01]]).program.length ≤ (running [[0xFF, 0x01]]).ip + 1 := by decide
theorem witness_CycleFetchesClassifiesExecutes_op :
    (running [[0x01, 0x05]]).program[0]? = some [0x01, 0x05] ∧ (0x01 : Byte) ≠ 0xFF ∧
      ∃ t, exec (.op 0x01 [0x05]) { running [[0x01, 0x05]] with frame := [0x01, 0x05], ipWritten := false } = .next t :=
  ⟨rfl, by decide, _, rfl⟩
theorem witness_FinishHaltsOrAdvances :
    (running labelled).fsm = .running ∧ { running labelled with halt := 9 }.halt ≠ 0 ∧ (running labelled).halt = 0 ∧
      { running labelled with ipWritten := true }.ipWritten = true ∧ (running labelled).ipWritten = false ∧
      (running labelled).ip + 1 < (running labelled).program.length ∧
      (running [[0x10]]).program.length ≤ (running [[0x10]]).ip + 1 := by decide
/-- For ADVANCE, EMPTY and FLAG: `ip = 1` of three frames, and `ip = 2`, the last. -/
theorem witness_AdvanceIsChecked :
    { running labelled with ip := 1 }.fsm = .running ∧ { running labelled with ip := 1 }.ip + 1 < labelled.length ∧
      labelled.length ≤ { running labelled with ip := 2 }.ip + 1 := by decide
theorem witness_ResultReportsEndOfRun :
    { ready with fsm := .halted, halt := 5 }.fsm = .halted ∧ (ready.raise .shortFrame).fsm = .faulted := by decide
theorem witness_EmptyFrameAdvances :
    (running [[], []]).program[(running [[], []]).ip]? = some [] ∧
      (running [[], []]).ip + 1 < (running [[], []]).program.length ∧ (running [[]]).program[(running [[]]).ip]? = some [] ∧
      (running [[]]).program.length ≤ (running [[]]).ip + 1 := by decide
theorem witness_FlagFrameSkipped :
    { running labelled with ip := 1 }.fsm = .running ∧ { running labelled with ip := 1 }.program[1]? = some [0xFF, 0x01] ∧
      { running labelled with ip := 1 }.ip + 1 < (running labelled).program.length ∧
      (running [[0xFF, 0x01]]).program[(running [[0xFF, 0x01]]).ip]? = some [0xFF, 0x01] ∧
      (running [[0xFF, 0x01]]).program.length ≤ (running [[0xFF, 0x01]]).ip + 1 ∧
      (running labelled).params.flagId = 0xFF := by decide
/-- A table of a handler that no script need describe: it pops, and halts with what it popped. -/
def popAndHalt : OpTable := fun b =>
  if b = 0x42 then some fun _ => .call .pop fun
    | .byte x => .call (.sethalt (x.setWidth 32)) fun _ => .done
    | _ => .done
  else none

theorem witness_OpDispatchesHandler :
    { running [[0x42]] with frame := [0x42] }.frame = [0x42] ∧ ready.params.optab.lookup 0x77 = none ∧
      (0x10 : Byte) ≠ ready.params.flagId ∧ ready.params.optab.lookup 0x10 = some (.script .done) ∧
      popAndHalt 0x43 = none := ⟨rfl, by decide, by decide, by decide, rfl⟩
theorem witness_OpDispatchesHandler_handler :
    ∃ h u w, popAndHalt 0x42 = some h ∧
      runHandler (h [0x42]) { running [[0x42]] with frame := [0x42], sp := 1, stack := [(1, 5)] } = .next u ∧
      u.fsm = .running ∧ runHandler (h [0x42]) { running [[0x42]] with frame := [0x42] } = .next w ∧ w.fsm ≠ .running :=
  ⟨_, _, _, rfl, rfl, rfl, rfl, by decide⟩
theorem witness_UnboundOpcodeFaults : (State.reset.withFetchWord 8 0x10).fsm = .running ∧ State.reset.params.optab = [] := by decide
theorem witness_OpCompletesUnderBoundHandlers :
    (running labelled).fsm = .running ∧ (running labelled).halt = 0 ∧ (running labelled).ipWritten = false ∧
      opcodeEntry? (running labelled).params 0x10 = some (.script .done) ∧
      (running labelled).ip + 1 < (running labelled).program.length := by decide
theorem witness_OpCompletesUnderBoundHandlers_halt :
    opcodeEntry? ready.params 0x01 =
      some (.script (.seq (.call .operand (.lit 1) (.lit 0)) (.call .sethalt (.result 0) (.lit 0)))) ∧ (0x05 : Byte) ≠ 0 := by
  decide
theorem witness_HandlerPerformsInOrder :
    ∃ t u, exec (instrOf (.push 7)) (running labelled) = .next t ∧ t.fsm = .running ∧
      exec (instrOf .pop) (running labelled) = .next u ∧ u.fsm ≠ .running := ⟨_, _, rfl, rfl, rfl, by decide⟩
theorem witness_HandlerReachesOnlyItsState :
    ∃ t, runHandler (.call (.push 7) fun _ => .call .pop fun _ => .done) (running labelled) = .next t := ⟨_, rfl⟩

/-- `sp = 254`, the last push that fits (K6), and `sp = 255` (K4). -/
theorem witness_PushWritesAboveTop :
    { running labelled with sp := 254 }.sp + 1 < (running labelled).cfg.stackSize ∧
      (running labelled).cfg.stackSize ≤ { running labelled with sp := 255 }.sp + 1 := by decide
theorem witness_PopReturnsTop :
    { running labelled with sp := 255 }.sp ≠ 0 ∧ { running labelled with sp := 255 }.sp < (running labelled).cfg.stackSize ∧
      (running labelled).sp = 0 := by decide
/-- The two ends of the range and what lies outside them (K8 to K11), for SETSP and, with HEAP_SIZE, for the heap. -/
theorem witness_SetspCommitsInRange :
    (running labelled).fsm = .running ∧ (0 : Int) < (running labelled).cfg.stackSize ∧
      (255 : Int) < (running labelled).cfg.stackSize ∧ ((running labelled).cfg.stackSize : Int) ≤ 256 ∧ (-1 : Int) < 0 := by decide
theorem witness_HeapReadInRange :
    (running labelled).fsm = .running ∧ (0 : Int) < (running labelled).cfg.heapSize ∧
      (255 : Int) < (running labelled).cfg.heapSize ∧ ((running labelled).cfg.heapSize : Int) ≤ 256 ∧ (-1 : Int) < 0 := by decide
theorem witness_HeapWriteInRange_no_heap :
    (({ running labelled with cfg := ⟨32, 0, 256⟩ } : State).cfg.heapSize : Int) ≤ 0 := by decide
theorem witness_StackIsLastInFirstOut :
    (running labelled).fsm = .running ∧ (running labelled).sp = 0 ∧
      (List.replicate 255 (7 : Byte)).length + 1 ≤ (running labelled).cfg.stackSize :=
  ⟨rfl, rfl, by rw [List.length_replicate]; decide⟩
theorem witness_StackIsLastInFirstOut_frame :
    performsHandler (.setsp 255) = false ∧ ∃ t, exec (.setsp 255) (running labelled) = .next t := ⟨rfl, _, rfl⟩
theorem witness_HeapReadAfterWrite :
    (0 : Int) ≤ 255 ∧ (255 : Int) < (running labelled).cfg.heapSize ∧
      ∃ t, exec (.heapwr 255 0xFF) (running labelled) = .next t := ⟨by decide, by decide, _, rfl⟩
theorem witness_StackAndHeapAreSeparate :
    (∃ t, exec (.heapwr 5 0x10) (running labelled) = .next t) ∧ (∃ t, exec (.push 0x10) (running labelled) = .next t) ∧
      ∃ t, exec .pop (running labelled) = .next t := ⟨⟨_, rfl⟩, ⟨_, rfl⟩, ⟨_, rfl⟩⟩
/-- Register indices 3 and 4, values `2^ARCH - 1` and `2^ARCH` (G2 to G4). -/
theorem witness_SetregStoresExactly :
    (3 : RegIndex).toNat < 4 ∧ 4 ≤ (4 : RegIndex).toNat ∧ 4294967295 < 2 ^ (running labelled).cfg.archBits ∧
      2 ^ (running labelled).cfg.archBits ≤ 4294967296 := by decide
theorem witness_GetregReturnsRegister :
    (running labelled).fsm = .running ∧ (0 : RegIndex).toNat < 4 ∧ 4 ≤ (255 : RegIndex).toNat := by
  decide
theorem witness_RegisterLaws :
    (1 : RegIndex).toNat < 4 ∧ (0 : RegIndex) ≠ 1 ∧ performsHandler (.setreg 1 7) = false ∧
      ∃ t, exec (.setreg 1 7) (running labelled) = .next t := ⟨by decide, by decide, rfl, _, rfl⟩
/-- LOOKUP, GETIP and SETHALT have the hypothesis `fsm = Running` alone. -/
theorem witness_LookupReturnsEntry : (running labelled).fsm = .running := rfl
theorem witness_SetipChecksTarget :
    2 < (running labelled).program.length ∧ (running labelled).program.length ≤ 3 := by decide
theorem witness_JmpflagFollowsTable :
    (running labelled).flag.lookup 0x01 = some 1 ∧ (running labelled).flag.lookup 0x02 = none := by decide
theorem witness_OperandReadsFetchedFrame :
    { running labelled with frame := [0x02, 0x00, 0x03] }.frame[2]? = some 0x03 ∧
      { running labelled with frame := [0x02, 0x00, 0x03] }.frame.length ≤ 3 := by decide
theorem witness_StopsOnlyWhereNotPerformed :
    isPrimitive .pop = true ∧ performsHandler .cycle = true ∧ ready.fsm ≠ .running ∧ { ready with fsm := .off }.fsm ≠ .ready ∧
      { ready with fsm := .off }.fsm ≠ .running ∧ ready.fsm ≠ .halted ∧ ready.fsm ≠ .faulted := by decide
/-- `ip = len(Program)` and `sp = STACK_SIZE`, the first values the invariants exclude, and a dispatch with no frame. -/
theorem witness_StopsOnlyWhereNotPerformed_running :
    (running labelled).fsm = .running ∧ (running labelled).frame = [] ∧
      labelled.length ≤ { running labelled with ip := 3 }.ip ∧
      (running labelled).cfg.stackSize ≤ { running labelled with sp := 256 }.sp := by decide
theorem witness_RangeCheckedBeforeCommit :
    ∃ t u, exec (.setsp 255) (running labelled) = .next t ∧ t.fsm = .running ∧ exec (.setsp 256) (running labelled) = .next u ∧
      u.fsm ≠ .running := ⟨_, _, rfl, rfl, rfl, by decide⟩
theorem witness_FaultRecordsKindAndStatus :
    ∃ t, exec .pop (running labelled) = .next t ∧ (running labelled).fsm ≠ .faulted ∧ t.fsm = .faulted :=
  ⟨_, rfl, by decide, rfl⟩
theorem witness_EndedRunIsFrozen :
    { ready with fsm := .halted, halt := 5 }.fsm = .halted ∧ (∀ a h k, Instr.result ≠ .init a h k) ∧
      ∃ t, exec .result { ready with fsm := .halted, halt := 5 } = .next t := ⟨rfl, by intros; simp, _, rfl⟩
theorem witness_ConfigurationLatchedByInitialize : ∃ t, exec (.init 8 0 1) ready = .next t ∧ t.cfg ≠ ready.cfg :=
  ⟨_, rfl, by decide⟩
theorem witness_CycleCounterCountsByOne :
    (∀ a h k, Instr.cycle ≠ .init a h k) ∧ ∃ t, exec .cycle (running labelled) = .next t ∧ t.cycles = 1 :=
  ⟨by intros; simp, _, rfl, rfl⟩
/-- A step of a run that goes on, for CycleCounterUnobserved and RunKeepsProgramAndTable. -/
theorem witness_CycleCounterUnobserved :
    (running labelled).fsm = .running ∧ ∃ t, step (running labelled) = .next t ∧ t.ip = 1 := ⟨rfl, _, rfl, rfl⟩
theorem witness_MemoriesStayCanonical :
    let s := { running labelled with stack := [(1, 7)], heap := [(5, 0x10), (9, 0x20)] }
    s.stack.wf = true ∧ s.heap.wf = true ∧ ∃ t, exec (.heapwr 7 1) s = .next t := ⟨rfl, rfl, _, rfl⟩
/-- At step level: a frame that decodes, is performed, and ends in a running, a halted and a faulted state. -/
theorem witness_StepRunsDecodedInstruction :
    (∃ t, exec (.op 0x10 []) { running labelled with frame := [0x10], ipWritten := false } = .next t ∧ t.fsm = .running) ∧
      decodeFrame 0xFF [0x10] = .ok (.op 0x10 []) ∧ (running labelled).program[(running labelled).ip]? = some [0x10] :=
  ⟨⟨_, rfl, rfl⟩, rfl, rfl⟩
theorem witness_StepRunsDecodedInstruction_halted :
    (∃ t, exec (.op 0x01 [0x05]) { running [[0x01, 0x05]] with frame := [0x01, 0x05], ipWritten := false } = .next t ∧
      t.fsm = .halted) ∧ decodeFrame 0xFF [0x01, 0x05] = .ok (.op 0x01 [0x05]) := ⟨⟨_, rfl, rfl⟩, rfl⟩
theorem witness_StepRunsDecodedInstruction_faulted :
    (∃ t, exec (.op 0x77 []) { running [[0x77]] with frame := [0x77], ipWritten := false } = .next t ∧ t.fsm = .faulted) ∧
      decodeFrame 0xFF [0x77] = .ok (.op 0x77 []) := ⟨⟨_, rfl, rfl⟩, rfl⟩
/-- An empty queue, and one with each command at its head. -/
theorem witness_StepRunsHostCommand :
    ready.fsm ≠ .running ∧ ready.inbox = [] ∧
      { ready with inbox := [.initialization 8 0 1] }.inbox = .initialization 8 0 1 :: [] ∧
      { ready with inbox := [.attach labelled] }.inbox = .attach labelled :: [] ∧
      { ready with inbox := [.run, .snapshot] }.inbox = .run :: [.snapshot] ∧
      { ready with inbox := [.runp labelled] }.inbox = .runp labelled :: [] ∧
      { ready with inbox := [.snapshot] }.inbox = .snapshot :: [] := by decide
theorem witness_FrameClassFromFirstByte :
    ([] : Frame).length = 0 ∧ 1 ≤ ([0xFF] : Frame).length ∧ ([0xFF] : Frame)[0]? = some 0xFF ∧ ([0x10] : Frame)[0]? ≠ some 0xFF := by
  decide
theorem witness_DecodeOfEncodedProgram :
    ∀ i ∈ [Instr.empty, .flag 0x00 [0xFF], .op 0xFE [0xFF, 0x00]], i.wellFormed 0xFF ∧
      (i = .empty ∨ (∃ l x, i = .flag l x) ∨ ∃ b r, i = .op b r) := by
  intro i hi
  simp only [List.mem_cons, List.not_mem_nil, or_false] at hi
  rcases hi with rfl | rfl | rfl
  · exact ⟨rfl, .inl rfl⟩
  · exact ⟨by decide, .inr (.inl ⟨_, _, rfl⟩)⟩
  · exact ⟨by decide, .inr (.inr ⟨_, _, rfl⟩)⟩
theorem witness_EncodeOfDecodedProgram : ∃ is, decodeProgram 0xFF labelled = .ok is ∧ is.length = 3 := ⟨_, rfl, rfl⟩

/-- A running state in the middle of a program, with a label, data on the stack and in the heap, and full registers. -/
def busy : State :=
  { running [[], [0xFF, 0x01]] with sp := 255, stack := [(255, 0x2A)], heap := [(0, 1), (255, 2)], cycles := 9,
                                    regs := #v[4294967295, 0, 1, 2] }

theorem busy_table (l : Byte) : busy.flag.lookup l = if l = 0x01 then some 1 else none := by
  show ((FlagTable.clear.declare 0x01 1).lookup l) = _
  split
  · next h => rw [h, FlagTable.lookup_declare_same]
  · next h => rw [FlagTable.lookup_declare_other _ _ h, FlagTable.lookup_clear]

theorem busy_frames (k : Nat) (f : Frame) (l : Byte) (hf : busy.program[k]? = some f) (hd : Declares 0xFF l f) :
    k = 1 ∧ l = 0x01 := by
  match k with
  | 0 => cases hf; simp [Declares] at hd
  | 1 => cases hf; simp [Declares] at hd; exact ⟨rfl, hd.symm⟩
  | k + 2 => cases hf

theorem busy_inv : busy.Inv := by
  refine ⟨by unfold Params.legal; decide, rfl, rfl, .inr ?_⟩
  have hwf : FlagsWellFormed busy.params.flagId busy.program := by unfold FlagsWellFormed Malformed; decide
  have htab : TableOf busy.params.flagId busy.program busy.flag := by
    intro l
    rw [busy_table]
    split
    · next h => exact ⟨⟨_, rfl, by subst h; exact ⟨rfl, rfl⟩⟩, fun j f hj hf hd => by have := (busy_frames j f l hf hd).1; omega⟩
    · next h => exact fun k f hf hd => h (busy_frames k f l hf hd).2
  exact {
    sp_lt := by decide
    regs_lt := by decide
    ip_running := fun _ => by decide
    ip_any := .inl rfl
    halt_zero := fun _ => rfl
    halt_nonzero := fun h => by cases h
    fault_clear := fun _ => rfl
    fault_set := fun h => by cases h
    flag_valid := fun l k hk => by
      rw [busy_table] at hk
      split at hk <;> cases hk
      next h => subst h; exact ⟨_, rfl, rfl, rfl⟩
    flag_last := fun _ => htab
    flags_well_formed := fun _ => hwf
    arch_pos := by decide
    stack_cells := fun a ha => by
      by_cases h : a = 255
      · subst h; decide
      · have : busy.stack.get? a = none := if_neg (fun h' => h h'.symm)
        rw [this] at ha; cases ha
    heap_cells := fun a ha => by
      by_cases h0 : a = 0
      · subst h0; decide
      · by_cases h : a = 255
        · subst h; decide
        · have : busy.heap.get? a = none := (if_neg (fun h' => h0 h'.symm)).trans (if_neg (fun h' => h h'.symm))
          rw [this] at ha; cases ha
    program_fits := by decide
    sp_ready := fun h => by cases h }

theorem witness_StepKeepsInvariant : busy.Inv ∧ ∃ t, step busy = .next t ∧ t.ip = 1 := ⟨busy_inv, _, rfl, rfl⟩
/-- Under the empty table and under any other. -/
theorem witness_StepAlwaysAnswers : busy.Inv ∧ busy.fsm = .running ∧ ∃ t, cycleUnder popAndHalt busy = .next t ∧ t.ip = 1 :=
  ⟨busy_inv, rfl, _, rfl, rfl⟩
/-- The converse of StopsOnlyWhereNotPerformed and the last clause of FaultRecordsKindAndStatus, from a state of the invariant. -/
theorem witness_StopsOnlyWhereNotPerformed_inv :
    busy.Inv ∧ ∃ t, exec .pop busy = .next t ∧ t.ret = .byte 0x2A := ⟨busy_inv, _, rfl, rfl⟩
theorem witness_FaultRecordsKindAndStatus_inv :
    busy.Inv ∧ ∃ t, exec (.push 1) busy = .next t ∧ busy.fsm ≠ .faulted ∧ t.fsm = .faulted :=
  ⟨busy_inv, _, rfl, by decide, rfl⟩

end Sys2Proof.Machine.Tests
end

/-! PROOFS. 20_memory R48: a primitive or an advance tests before it commits. The effects of a primitive are already listed by
`PrimEffect`; what is added here is which part of the state each effect can move, and out of which range it never does. -/

namespace Sys2Proof.Machine

/-! ### What an effect of a primitive can move -/

theorem PrimEffect.fsm_eq {s t : State} (h : PrimEffect s t) : t.fsm = s.fsm := by cases h <;> rfl

theorem PrimEffect.sp_eq_or_lt {s t : State} (h : PrimEffect s t) : t.sp = s.sp ∨ t.sp < s.cfg.stackSize := by
  cases h with
  | pushed b hlt => exact .inr hlt
  | spMoved k v hlt => exact .inr hlt
  | _ => exact .inl rfl

theorem State.getReg_setReg (s : State) (i r : Fin 4) (v : Nat) :
    (s.setReg i v).getReg r = if i = r then v else s.getReg r := by
  simp [State.getReg, Vector.getElem_set, Fin.ext_iff]

theorem PrimEffect.getReg_eq_or_lt {s t : State} (h : PrimEffect s t) (r : Fin 4) :
    t.getReg r = s.getReg r ∨ t.getReg r < 2 ^ s.cfg.archBits := by
  cases h with
  | regWritten i v hlt =>
    have hread : State.getReg { s.setReg i v with ret := .unit } r = if i = r then v else s.getReg r :=
      s.getReg_setReg i r v
    by_cases hir : i = r
    · right; rwa [hread, if_pos hir]
    · left; rw [hread, if_neg hir]
  | _ => exact .inl rfl

/-- A write changes the byte of its own cell only. -/
theorem Memory.read_write_eq_or_same (m : Memory) (space : MemSpace) (draw a x : Nat) (b : Byte) :
    Memory.read (m.write a b) space draw x = Memory.read m space draw x ∨ x = a := by
  by_cases hxa : x = a
  · exact .inr hxa
  · exact .inl (Memory.read_write_other m space draw b hxa)

theorem PrimEffect.stackAt_eq_or_lt {s t : State} (h : PrimEffect s t) (x : Nat) :
    t.stackAt x = s.stackAt x ∨ x < s.cfg.stackSize := by
  cases h with
  | pushed b hlt =>
    exact (Memory.read_write_eq_or_same s.stack .stack s.draw (s.sp + 1) x b).imp_right fun hx => by omega
  | _ => exact .inl rfl

theorem PrimEffect.heapAt_eq_or_lt {s t : State} (h : PrimEffect s t) (x : Nat) :
    t.heapAt x = s.heapAt x ∨ x < s.cfg.heapSize := by
  cases h with
  | heapWritten a b hlt =>
    exact (Memory.read_write_eq_or_same s.heap .heap s.draw a x b).imp_right fun hx => by omega
  | _ => exact .inl rfl

/-! ### What `PrimEffect` leaves open: which primitive jumped to the table's entry, and how far a pop moves `sp` -/

theorem State.unless_ip {s t : State} (test : Option MsgId) (h : t.ip = s.ip) : (s.unless test t).ip = s.ip := by
  cases test with
  | none => exact h
  | some m => rfl

/-- Only SETIP and JMPFLAG move `ip`: the one tests its target, the other takes the entry of its own label. -/
theorem perform_ip {p : Prim} {s t : State} (h : perform p s = .next t) :
    t.ip = s.ip ∨ t.ip < s.program.length ∨ ∃ l, p = .jmpflag l ∧ s.flag.lookup l = some t.ip := by
  cases p with
  | setip k =>
    obtain ⟨-, h⟩ := inCycle_next.mp h
    split at h <;> cases h
    · exact .inl rfl
    · next hk => exact .inr (.inl (Nat.not_le.mp hk))
  | jmpflag l =>
    obtain ⟨-, h⟩ := inCycle_next.mp h
    split at h <;> cases h
    · exact .inl rfl
    · next k hk => exact .inr (.inr ⟨l, rfl, hk⟩)
  | setsp _ | heaprd _ | heapwr _ _ =>
    obtain ⟨-, h⟩ := inCycle_next.mp h
    cases h
    exact .inl (State.unless_ip _ rfl)
  | getsp | lookup _ | getip | sethalt _ =>
    obtain ⟨-, h⟩ := inCycle_next.mp h
    cases h
    exact .inl rfl
  | push _ | getreg _ | operand _ =>
    obtain ⟨-, h⟩ := inCycle_next.mp h
    split at h <;> cases h <;> exact .inl rfl
  | pop | setreg _ _ =>
    obtain ⟨-, h⟩ := inCycle_next.mp h
    split at h
    · cases h; exact .inl rfl
    · split at h <;> cases h <;> exact .inl rfl

/-- A pop that does not end the run lowers `sp` by one, from a value above 0. -/
theorem perform_pop_sp {s t : State} (h : perform .pop s = .next t) (hr : t.fsm = .running) : s.sp = t.sp + 1 := by
  obtain ⟨-, h⟩ := inCycle_next.mp h
  split at h
  · cases h; cases hr
  · next h0 =>
    split at h <;> cases h
    exact (Nat.sub_one_add_one h0).symm

/-! ### The obligation -/

theorem isPrimitive_not_isHostCommand {i : Instr} (hp : isPrimitive i = true) : isHostCommand i ≠ true := by
  cases i <;> simp [isPrimitive] at hp <;> simp [isHostCommand]

/-- A fault of the model, written out. -/
theorem State.raise_eq_raised (s : State) (m : MsgId) : s.raise m = raised s m.kind m := rfl

/-- What the operations of R48 do when they answer. -/
theorem primitive_or_advance_cases {i : Instr} {s t : State} (hi : isPrimitive i = true ∨ i = .advance)
    (h : exec i s = .next t) : (∃ p, i = instrOf p ∧ perform p s = .next t) ∨ (i = .advance ∧ t = s.advance) := by
  cases exec_cases h with
  | primitive p hip hp => exact .inl ⟨p, hip, hp⟩
  | advance => exact .inr ⟨rfl, rfl⟩
  | refused hc =>
    rcases hi with hi | rfl
    · exact absurd hc (isPrimitive_not_isHostCommand hi)
    · cases hc
  | _ => simp [isPrimitive] at hi

theorem instrOf_eq_pop {p : Prim} (h : instrOf p = .pop) : p = .pop := by cases p <;> cases h; rfl

/-- Settles O44: a raise is a fault and nothing else, and every other outcome is an effect of `PrimEffect` or the checked
increment, whose ranges are known one field at a time. -/
theorem rangeCheckedBeforeCommit : Obligations.RangeCheckedBeforeCommit := by
  intro i s t hi h
  rcases primitive_or_advance_cases hi h with ⟨p, rfl, hp⟩ | ⟨rfl, rfl⟩
  · obtain ⟨hs, ⟨m, -, rfl⟩ | he⟩ := perform_cases hp
    · exact ⟨fun _ => ⟨_, m, s.raise_eq_raised m⟩, fun hr => nomatch hr⟩
    · have hip : t.ip = s.ip ∨ t.ip < s.program.length ∨
          ∃ l, instrOf p = .jmpflag l ∧ s.flag.lookup l = some t.ip :=
        (perform_ip hp).imp_right (Or.imp_right fun ⟨l, hpl, hl⟩ => ⟨l, congrArg instrOf hpl, hl⟩)
      have hpop (hr : t.fsm = .running) (hi : instrOf p = .pop) : s.sp = t.sp + 1 :=
        perform_pop_sp (instrOf_eq_pop hi ▸ hp) hr
      exact ⟨fun hr => absurd (he.fsm_eq.trans hs) hr,
        fun hr => ⟨he.sp_eq_or_lt, hip, he.getReg_eq_or_lt, he.stackAt_eq_or_lt, he.heapAt_eq_or_lt, hpop hr⟩⟩
  · have hs : s.fsm = .running := (inCycle_next.mp h).1
    obtain ⟨hlt, e⟩ | ⟨-, e⟩ := s.advance_cases <;> rw [e]
    · exact ⟨fun hr => absurd hs hr, fun _ =>
        ⟨.inl rfl, .inr (.inl hlt), fun _ => .inl rfl, fun _ => .inl rfl, fun _ => .inl rfl, nofun⟩⟩
    · exact ⟨fun _ => ⟨_, _, s.raise_eq_raised _⟩, fun hr => nomatch hr⟩

end Sys2Proof.Machine

/-! PROOFS. 30_encoding R62: the class of a frame. One equation per shape of a frame says all there is to `classify`. -/

namespace Sys2Proof

@[simp] theorem classify_nil (flagId : Byte) : classify flagId [] = .empty := rfl

/-- Byte 0 decides; the bytes after it have no say. -/
theorem classify_cons (flagId b : Byte) (rest : Frame) :
    classify flagId (b :: rest) = if b = flagId then .flag else .op := rfl

@[simp] theorem classify_cons_flagId (flagId : Byte) (rest : Frame) : classify flagId (flagId :: rest) = .flag := by
  rw [classify_cons, if_pos rfl]

theorem classify_cons_of_ne {flagId b : Byte} (rest : Frame) (h : b ≠ flagId) : classify flagId (b :: rest) = .op := by
  rw [classify_cons, if_neg h]

end Sys2Proof

namespace Sys2Proof.Machine

/-- Settles O57, by the two shapes of a frame: the empty one has no byte 0, and any other is classed by its head. -/
theorem frameClassFromFirstByte : Obligations.FrameClassFromFirstByte := by
  intro flagId f
  cases f with
  | nil => exact ⟨fun _ => classify_nil flagId, nofun, nofun⟩
  | cons b rest =>
    refine ⟨nofun, fun _ hflag => ?_, fun _ hop => ?_⟩
    · obtain rfl : b = flagId := Option.some.inj hflag
      exact classify_cons_flagId b rest
    · exact classify_cons_of_ne rest fun hb => hop (congrArg some hb)

end Sys2Proof.Machine

/-! PROOFS. 41_stack R90, R91, R93, R94: PUSH and POP as equations on the state, runs of them, and what moves `sp`. -/

namespace Sys2Proof.Machine

/-! ### PUSH and POP -/

/-- The state after a PUSH that finds room (41_stack R90). -/
def State.pushed (s : State) (v : Byte) : State :=
  { s with sp := s.sp + 1, stack := s.stack.write (s.sp + 1) v, ret := .unit }

/-- The state after a POP of a cell of the stack (41_stack R91). -/
def State.popped (s : State) : State := { s with sp := s.sp - 1, ret := .byte (s.stackAt s.sp) }

@[simp] theorem State.pushed_sp (s : State) (v : Byte) : (s.pushed v).sp = s.sp + 1 := rfl
@[simp] theorem State.pushed_fsm (s : State) (v : Byte) : (s.pushed v).fsm = s.fsm := rfl
@[simp] theorem State.pushed_cfg (s : State) (v : Byte) : (s.pushed v).cfg = s.cfg := rfl
@[simp] theorem State.popped_sp (s : State) : s.popped.sp = s.sp - 1 := rfl
@[simp] theorem State.popped_fsm (s : State) : s.popped.fsm = s.fsm := rfl
@[simp] theorem State.popped_cfg (s : State) : s.popped.cfg = s.cfg := rfl
@[simp] theorem State.popped_ret (s : State) : s.popped.ret = .byte (s.stackAt s.sp) := rfl
@[simp] theorem State.popped_stackAt (s : State) (a : Nat) : s.popped.stackAt a = s.stackAt a := rfl

@[simp] theorem State.pushed_stackAt_top (s : State) (v : Byte) : (s.pushed v).stackAt (s.sp + 1) = v :=
  Memory.read_write_same s.stack .stack s.draw (s.sp + 1) v

theorem State.pushed_stackAt_other (s : State) (v : Byte) {a : Nat} (h : a ≠ s.sp + 1) :
    (s.pushed v).stackAt a = s.stackAt a :=
  Memory.read_write_other s.stack .stack s.draw v h

theorem exec_push {s : State} (v : Byte) (hr : s.fsm = .running) (h : s.sp + 1 < s.cfg.stackSize) :
    exec (.push v) s = .next (s.pushed v) :=
  (inCycle_running hr _).trans (congrArg _ (if_neg (Nat.not_le.mpr h)))

theorem exec_push_full {s : State} (v : Byte) (hr : s.fsm = .running) (h : s.cfg.stackSize ≤ s.sp + 1) :
    exec (.push v) s = .next (s.raise .stackOverflow) :=
  (inCycle_running hr _).trans (congrArg _ (if_pos h))

theorem exec_pop {s : State} (hr : s.fsm = .running) (h0 : s.sp ≠ 0) (h : s.sp < s.cfg.stackSize) :
    exec .pop s = .next s.popped :=
  (inCycle_running hr _).trans ((if_neg h0).trans (if_pos h))

theorem exec_pop_empty {s : State} (hr : s.fsm = .running) (h : s.sp = 0) :
    exec .pop s = .next (s.raise .stackUnderflow) :=
  (inCycle_running hr _).trans (if_pos h)

/-- Settles O25: the write is read back at the new `sp`, and everywhere else the cell is the old one. -/
theorem pushWritesAboveTop : Obligations.PushWritesAboveTop := by
  intro s v hr
  refine ⟨fun hroom => ?_, fun hfull => exec_push_full v hr hfull⟩
  exact ⟨s.pushed v, exec_push v hr hroom, rfl, s.pushed_stackAt_top v, fun _ => s.pushed_stackAt_other v⟩

/-- Settles O26. -/
theorem popReturnsTop : Obligations.PopReturnsTop :=
  fun _ hr => ⟨exec_pop hr, exec_pop_empty hr⟩

/-- Settles O28: GETSP has no test, so in a cycle it always answers. -/
theorem getspReturnsStackPointer : Obligations.GetspReturnsStackPointer :=
  fun _ hr => inCycle_running hr _

/-! ### Runs of pushes and pops -/

/-- The bytes of the stack cells 1 to `n`, from the bottom. -/
def State.stackCells (s : State) (n : Nat) : List Byte := (List.range n).map fun i => s.stackAt (i + 1)

theorem State.stackCells_succ (s : State) (n : Nat) : s.stackCells (n + 1) = s.stackCells n ++ [s.stackAt (n + 1)] := by
  simp [State.stackCells, List.range_succ]

theorem State.stackAt_of_stackCells {s : State} {n i : Nat} {v : Byte} (h : (s.stackCells n)[i]? = some v) :
    s.stackAt (i + 1) = v := by
  rw [State.stackCells, List.getElem?_map, Option.map_eq_some_iff] at h
  obtain ⟨j, hj, rfl⟩ := h
  obtain ⟨-, rfl⟩ := List.getElem?_eq_some_iff.mp hj
  rw [List.getElem_range]

/-- A push adds its byte on top of the bytes that are there. -/
theorem State.stackCells_pushed (s : State) (v : Byte) :
    (s.pushed v).stackCells (s.sp + 1) = s.stackCells s.sp ++ [v] := by
  have hbelow : (s.pushed v).stackCells s.sp = s.stackCells s.sp :=
    List.map_congr_left fun i hi => s.pushed_stackAt_other v (by have := List.mem_range.mp hi; omega)
  rw [State.stackCells_succ, hbelow, State.pushed_stackAt_top]

@[simp] theorem State.stackCells_popped (s : State) (n : Nat) : s.popped.stackCells n = s.stackCells n := rfl

/-- The first operation answers a running state, and the others go on from there. -/
theorem performAll_cons {i : Instr} {s t : State} (is : List Instr) (h : exec i s = .next t) (hr : t.fsm = .running) :
    performAll (i :: is) s = (performAll is t).map fun r => (r.1, t.ret :: r.2) := by
  simp [performAll, h, hr]

/-- Pushes that find room, from any state in a run: their bytes end on top of the bytes that were there, in order. -/
theorem performAll_push (vs : List Byte) {s : State} (hr : s.fsm = .running)
    (hroom : s.sp + vs.length < s.cfg.stackSize) :
    ∃ t rs, performAll (vs.map .push) s = some (t, rs) ∧ t.fsm = .running ∧ t.cfg = s.cfg ∧
      t.sp = s.sp + vs.length ∧ t.stackCells t.sp = s.stackCells s.sp ++ vs := by
  induction vs generalizing s with
  | nil => exact ⟨s, [], rfl, hr, rfl, rfl, (List.append_nil _).symm⟩
  | cons v vs ih =>
    rw [List.length_cons] at hroom
    have hpush : exec (.push v) s = .next (s.pushed v) := exec_push v hr (by omega)
    obtain ⟨t, rs, hrun, hfsm, hcfg, hsp, hcells⟩ := ih (s := s.pushed v) hr (by simp; omega)
    refine ⟨t, (s.pushed v).ret :: rs, ?_, hfsm, hcfg, ?_, ?_⟩
    · rw [List.map_cons, performAll_cons _ hpush hr, hrun]; rfl
    · rw [hsp, State.pushed_sp, List.length_cons]; omega
    · rw [hcells, State.pushed_sp, State.stackCells_pushed, List.append_assoc, List.singleton_append]

/-- As many pops as there are bytes on the stack return them all, the top one first. -/
theorem performAll_pop {s : State} (hr : s.fsm = .running) (hsp : s.sp < s.cfg.stackSize) :
    ∃ u, performAll (List.replicate s.sp .pop) s = some (u, (s.stackCells s.sp).reverse.map .byte) ∧ u.sp = 0 := by
  induction hn : s.sp generalizing s with
  | zero => exact ⟨s, rfl, hn⟩
  | succ n ih =>
    have hpop : exec .pop s = .next s.popped := exec_pop hr (by omega) hsp
    have hsp' : s.popped.sp = n := by rw [State.popped_sp, hn, Nat.add_sub_cancel]
    obtain ⟨u, hrun, hu⟩ := ih (s := s.popped) hr (by rw [hsp', State.popped_cfg]; omega) hsp'
    refine ⟨u, ?_, hu⟩
    rw [List.replicate_succ, performAll_cons _ hpop hr, hrun, State.stackCells_succ]
    simp [hn]

/-! ### What moves `sp` -/

theorem State.unless_sp {s t : State} (test : Option MsgId) (h : t.sp = s.sp) : (s.unless test t).sp = s.sp := by
  cases test with
  | none => exact h
  | some m => rfl

@[simp] theorem State.advance_sp (s : State) : s.advance.sp = s.sp := by
  rcases s.advance_cases with ⟨-, e⟩ | ⟨-, e⟩ <;> rw [e]
  rfl

@[simp] theorem State.finish_sp (s : State) : s.finish.sp = s.sp := by
  rcases s.finish_cases with ⟨-, e⟩ | ⟨-, -, e⟩ | ⟨-, -, e⟩ <;> rw [e]
  exact s.advance_sp

@[simp] theorem State.rebuild_sp (s : State) : s.rebuild.sp = s.sp := by
  rcases s.rebuild_cases with ⟨_, -, e⟩ | ⟨_, _, -, e⟩ <;> rw [e]
  rfl

/-- The stack operations move `sp`, each in its own way; a raise and every other primitive keep it. -/
theorem perform_sp {p : Prim} {s t : State} (h : perform p s = .next t) :
    t.sp = s.sp ∨ (∃ v, instrOf p = .push v ∧ t.sp = s.sp + 1) ∨ (instrOf p = .pop ∧ s.sp = t.sp + 1) ∨
      ∃ v, instrOf p = .setsp v ∧ (t.sp : Int) = v := by
  cases p with
  | push v =>
    obtain ⟨-, h⟩ := inCycle_next.mp h
    split at h <;> cases h
    · exact .inl rfl
    · exact .inr (.inl ⟨v, rfl, rfl⟩)
  | pop =>
    obtain ⟨-, ⟨m, -, rfl⟩ | he⟩ := perform_cases h
    · exact .inl rfl
    · exact .inr (.inr (.inl ⟨rfl, perform_pop_sp h (he.fsm_eq.trans (inCycle_next.mp h).1)⟩))
  | setsp v =>
    obtain ⟨-, h⟩ := inCycle_next.mp h
    cases h
    obtain ⟨htest, e⟩ | ⟨m, -, e⟩ := State.unless_cases s { s with sp := v.toNat, ret := .unit } (s.spTest v) <;> rw [e]
    · exact .inr (.inr (.inr ⟨v, rfl, Int.toNat_of_nonneg (rangeTest_none.mp htest).1⟩))
    · exact .inl rfl
  | heaprd _ | heapwr _ _ =>
    obtain ⟨-, h⟩ := inCycle_next.mp h
    cases h
    exact .inl (State.unless_sp _ rfl)
  | getsp | lookup _ | getip | sethalt _ =>
    obtain ⟨-, h⟩ := inCycle_next.mp h
    cases h
    exact .inl rfl
  | getreg _ | operand _ | setip _ | jmpflag _ =>
    obtain ⟨-, h⟩ := inCycle_next.mp h
    split at h <;> cases h <;> exact .inl rfl
  | setreg _ _ =>
    obtain ⟨-, h⟩ := inCycle_next.mp h
    split at h
    · cases h; exact .inl rfl
    · split at h <;> cases h <;> exact .inl rfl

/-- In a run an operation that performs no whole handler is a primitive or keeps `sp`: the operations that reset it, INITIALIZE
and ENTER, are performed outside a run only. -/
theorem exec_running_primitive_or_sp_eq {i : Instr} {s t : State} (hs : s.fsm = .running)
    (hi : performsHandler i = false) (h : exec i s = .next t) :
    (∃ p, i = instrOf p ∧ perform p s = .next t) ∨ t.sp = s.sp := by
  have hready : s.fsm ≠ .ready := fun hr => nomatch hs.symm.trans hr
  cases exec_cases h with
  | primitive p hip hp => exact .inl ⟨p, hip, hp⟩
  | empty | flag | advance => exact .inr s.advance_sp
  | finish => exact .inr s.finish_sp
  | rebuild => exact .inr s.rebuild_sp
  | op | dispatch | cycle => cases hi
  | initialized _ _ _ hr => exact absurd hs hr
  | enter hr | attach _ hr | run hr | runEmpty hr | runp _ hr | runpEmpty hr => exact absurd hr hready
  | result | refused | snapshot => exact .inr rfl

/-- Settles O29: the pushes leave exactly their bytes in the cells 1 to N, which the pops return from the top; `sp` moves as
`perform_sp` says. -/
theorem stackIsLastInFirstOut : Obligations.StackIsLastInFirstOut := by
  refine ⟨fun s vs hr h0 hroom => ?_, fun s v hr hroom => ?_, fun i s t hr hi h => ?_⟩
  · obtain ⟨t, rs, hpush, htr, hcfg, hsp, hcells⟩ := performAll_push vs hr (by omega)
    rw [h0, Nat.zero_add] at hsp
    replace hcells : t.stackCells t.sp = vs := by rw [hcells, h0]; rfl
    obtain ⟨u, hpop, hu⟩ := performAll_pop htr (by rw [hsp, hcfg]; omega)
    rw [hcells, hsp] at hpop
    exact ⟨t, u, rs, hpush, hsp, fun i v hv => t.stackAt_of_stackCells (hcells ▸ hv), hpop, hu⟩
  · refine ⟨s.pushed v, (s.pushed v).popped, exec_push v hr hroom, exec_pop hr (Nat.succ_ne_zero _) hroom, ?_, rfl⟩
    exact congrArg Value.byte (s.pushed_stackAt_top v)
  · rcases exec_running_primitive_or_sp_eq hr hi h with ⟨p, rfl, hp⟩ | hsp
    · exact perform_sp hp
    · exact .inl hsp

end Sys2Proof.Machine

/-! PROOFS. 44_fetch_execute R129: RESULT. -/

namespace Sys2Proof.Machine

/-- RESULT has a value and puts it on the reply port; nothing else changes (44_fetch_execute R129). -/
theorem exec_result_of_result? {s : State} {r : Reply} (h : s.result? = some r) :
    exec .result s = .next { s with reply := r } := by
  simp only [exec, execResult, h]

/-- `fsm` alone tells the two ends of a run apart, whatever number `halt` and the fault's status hold. -/
theorem State.result?_of_halted {s : State} (h : s.fsm = .halted) : s.result? = some (.ok s.halt) := by
  rw [State.result?, h]

theorem State.result?_of_faulted {s : State} (h : s.fsm = .faulted) : s.result? = some (.fault s.fault) := by
  rw [State.result?, h]

/-- Settles O17: the value of RESULT is chosen by `fsm`, once for each end of a run. -/
theorem resultReportsEndOfRun : Obligations.ResultReportsEndOfRun :=
  ⟨fun _ h => exec_result_of_result? (State.result?_of_halted h),
    fun _ h => exec_result_of_result? (State.result?_of_faulted h)⟩

end Sys2Proof.Machine

/-! PROOFS. 30_encoding R62 to R65, R68: the decoder and the encoder are inverse to each other, one frame at a time and over a
whole program. -/

namespace Sys2Proof.Machine

/-! ### One frame -/

/-- The frame operations are the ones with a frame, and what is well formed decodes to itself. -/
theorem exists_frame_decoding_to {flagId : Byte} {i : Instr} (hw : i.wellFormed flagId = true)
    (hi : i = .empty ∨ (∃ l x, i = .flag l x) ∨ ∃ b r, i = .op b r) :
    ∃ f, encodeFrame flagId i = some f ∧ decodeFrame flagId f = .ok i := by
  obtain rfl | ⟨l, x, rfl⟩ | ⟨b, r, rfl⟩ := hi
  · exact ⟨[], rfl, rfl⟩
  · exact ⟨_, rfl, Laws.Codec.flag l x flagId _ rfl hw⟩
  · exact ⟨_, rfl, Laws.Codec.op b r flagId _ rfl hw⟩

/-- An accepted frame is well formed, and it is the frame of what it decodes to. -/
theorem encodeFrame_of_decodeFrame {flagId : Byte} {f : Frame} {i : Instr} (h : decodeFrame flagId f = .ok i) :
    encodeFrame flagId i = some f ∧ i.wellFormed flagId = true := by
  match f with
  | [] => cases h; exact ⟨rfl, rfl⟩
  | b :: rest =>
    by_cases hb : b = flagId
    · subst hb
      match rest with
      | [] => simp [decodeFrame] at h
      | l :: x =>
        by_cases hl : l = b
        · simp [decodeFrame, hl] at h
        · simp only [decodeFrame, if_true, if_neg hl] at h
          cases h
          exact ⟨rfl, decide_eq_true hl⟩
    · simp only [decodeFrame, if_neg hb] at h
      cases h
      exact ⟨rfl, decide_eq_true hb⟩

/-- The decoder rejects the malformed flag frames and no others. -/
theorem exists_decodeFrame_iff {flagId : Byte} {f : Frame} :
    (∃ i, decodeFrame flagId f = .ok i) ↔ ¬ Malformed flagId f := by
  match f with
  | [] => simp [decodeFrame, Malformed]
  | [b] => by_cases hb : b = flagId <;> simp [decodeFrame, Malformed, hb]
  | b :: l :: x => by_cases hb : b = flagId <;> by_cases hl : l = flagId <;> simp [decodeFrame, Malformed, hb, hl]

/-! ### A whole program -/

/-- A program is accepted when its first frame and the rest are. -/
theorem decodeProgramFrom_cons_ok {flagId : Byte} {k : Nat} {f : Frame} {fs : Program} {is : List Instr} :
    decodeProgramFrom flagId k (f :: fs) = .ok is ↔
      ∃ i is', is = i :: is' ∧ decodeFrame flagId f = .ok i ∧ decodeProgramFrom flagId (k + 1) fs = .ok is' := by
  cases hf : decodeFrame flagId f with
  | error e => simp [decodeProgramFrom, hf]
  | ok i => cases hfs : decodeProgramFrom flagId (k + 1) fs <;> simp [decodeProgramFrom, hf, hfs, eq_comm]

theorem encodeProgram_cons {flagId : Byte} {i : Instr} {is : List Instr} {f : Frame} {fs : Program}
    (hf : encodeFrame flagId i = some f) (hfs : encodeProgram flagId is = some fs) :
    encodeProgram flagId (i :: is) = some (f :: fs) := by
  simp [encodeProgram, hf, hfs]

/-- Settles O58, by induction on the operations; the index the decoder counts plays no part, so it is left general. -/
theorem decodeOfEncodedProgram : Obligations.DecodeOfEncodedProgram := by
  intro flagId is his
  suffices ∀ k, ∃ p, encodeProgram flagId is = some p ∧ decodeProgramFrom flagId k p = .ok is from this 0
  induction is with
  | nil => exact fun k => ⟨[], rfl, rfl⟩
  | cons i is ih =>
    intro k
    obtain ⟨hw, hi⟩ := his i List.mem_cons_self
    obtain ⟨f, henc, hdec⟩ := exists_frame_decoding_to hw hi
    obtain ⟨fs, hencs, hdecs⟩ := ih (fun j hj => his j (List.mem_cons_of_mem i hj)) (k + 1)
    exact ⟨f :: fs, encodeProgram_cons henc hencs, decodeProgramFrom_cons_ok.mpr ⟨i, is, rfl, hdec, hdecs⟩⟩

theorem encodeProgram_of_decodeProgramFrom {flagId : Byte} {p : Program} {k : Nat} {is : List Instr}
    (h : decodeProgramFrom flagId k p = .ok is) :
    encodeProgram flagId is = some p ∧ ∀ i ∈ is, i.wellFormed flagId = true := by
  induction p generalizing k is with
  | nil => cases h; exact ⟨rfl, nofun⟩
  | cons f fs ih =>
    obtain ⟨i, is, rfl, hf, hfs⟩ := decodeProgramFrom_cons_ok.mp h
    obtain ⟨henc, hw⟩ := encodeFrame_of_decodeFrame hf
    obtain ⟨hencs, hws⟩ := ih hfs
    exact ⟨encodeProgram_cons henc hencs, List.forall_mem_cons.mpr ⟨hw, hws⟩⟩

theorem flagsWellFormed_cons {flagId : Byte} {f : Frame} {fs : Program} :
    FlagsWellFormed flagId (f :: fs) ↔ ¬ Malformed flagId f ∧ FlagsWellFormed flagId fs :=
  List.forall_mem_cons

theorem exists_decodeProgramFrom_iff {flagId : Byte} {p : Program} (k : Nat) :
    (∃ is, decodeProgramFrom flagId k p = .ok is) ↔ FlagsWellFormed flagId p := by
  induction p generalizing k with
  | nil => exact ⟨fun _ => nofun, fun _ => ⟨[], rfl⟩⟩
  | cons f fs ih =>
    rw [flagsWellFormed_cons, ← exists_decodeFrame_iff, ← ih (k + 1)]
    constructor
    · rintro ⟨_, h⟩
      obtain ⟨i, is, rfl, hf, hfs⟩ := decodeProgramFrom_cons_ok.mp h
      exact ⟨⟨i, hf⟩, ⟨is, hfs⟩⟩
    · rintro ⟨⟨i, hf⟩, ⟨is, hfs⟩⟩
      exact ⟨i :: is, decodeProgramFrom_cons_ok.mpr ⟨i, is, rfl, hf, hfs⟩⟩

/-- Settles O59. -/
theorem encodeOfDecodedProgram : Obligations.EncodeOfDecodedProgram :=
  fun _ _ => ⟨fun _ h => encodeProgram_of_decodeProgramFrom h, exists_decodeProgramFrom_iff 0⟩

/-- Settles O60: seven words, each evaluated. -/
theorem wordsDecode : Obligations.WordsDecode := ⟨rfl, rfl, rfl, rfl, rfl, rfl, rfl⟩

end Sys2Proof.Machine

/-! PROOFS. 40_flag_table R80, R82, R85: the table the scan leaves, and REBUILD, ENTER, ATTACH, RUN and RUNP on top of it. -/

namespace Sys2Proof.Machine

/-! ### The table of a program, one frame at a time -/

theorem tableOf_clear (flagId : Byte) : TableOf flagId [] FlagTable.clear := by
  intro l
  rw [FlagTable.lookup_clear]
  intro k f hf
  cases hf

/-- A frame after the last one is a frame of the program or the new one. -/
theorem getElem?_concat_some {p : Program} {f g : Frame} {k : Nat} (h : (p ++ [f])[k]? = some g) :
    p[k]? = some g ∨ (k = p.length ∧ g = f) := by
  rw [List.getElem?_append] at h
  split at h
  · exact .inl h
  · next hk =>
    rw [List.getElem?_singleton] at h
    split at h <;> cases h
    exact .inr ⟨by omega, rfl⟩

theorem getElem?_concat_of_some {p : Program} {f g : Frame} {k : Nat} (h : p[k]? = some g) : (p ++ [f])[k]? = some g := by
  rwa [List.getElem?_append_left (List.getElem?_eq_some_iff.mp h).1]

/-- A frame that does not declare the label leaves its last declaration where it is. -/
theorem LastDeclaration.concat {flagId l : Byte} {p : Program} {f : Frame} {e : Option Nat}
    (h : LastDeclaration flagId l p e) (hf : ¬ Declares flagId l f) : LastDeclaration flagId l (p ++ [f]) e := by
  cases e with
  | none =>
    intro k g hg
    obtain hg | ⟨-, rfl⟩ := getElem?_concat_some hg
    · exact h k g hg
    · exact hf
  | some k =>
    obtain ⟨⟨d, hd, hdecl⟩, hlast⟩ := h
    refine ⟨⟨d, getElem?_concat_of_some hd, hdecl⟩, fun j g hj hg => ?_⟩
    obtain hg | ⟨-, rfl⟩ := getElem?_concat_some hg
    · exact hlast j g hj hg
    · exact hf

/-- A frame that declares the label is its last declaration. -/
theorem LastDeclaration.of_concat {flagId l : Byte} {p : Program} {f : Frame} (hf : Declares flagId l f) :
    LastDeclaration flagId l (p ++ [f]) (some p.length) := by
  refine ⟨⟨f, List.getElem?_concat_length, hf⟩, fun j g hj hg => ?_⟩
  have hlt := (List.getElem?_eq_some_iff.mp hg).1
  rw [List.length_append, List.length_singleton] at hlt
  omega

theorem TableOf.concat_nothing {flagId : Byte} {p : Program} {f : Frame} {t : FlagTable} (h : TableOf flagId p t)
    (hf : ∀ l, ¬ Declares flagId l f) : TableOf flagId (p ++ [f]) t :=
  fun l => (h l).concat (hf l)

theorem TableOf.concat_label {flagId l : Byte} {p : Program} {f : Frame} {t : FlagTable} (h : TableOf flagId p t)
    (hf : ∀ x, Declares flagId x f ↔ x = l) : TableOf flagId (p ++ [f]) (t.declare l p.length) := by
  intro x
  by_cases hx : x = l
  · subst hx
    rw [FlagTable.lookup_declare_same]
    exact .of_concat ((hf x).mpr rfl)
  · rw [FlagTable.lookup_declare_other t _ hx]
    exact (h x).concat (fun hd => hx ((hf x).mp hd))

/-- The table holds declarations of the program only (10_state R22). -/
theorem TableOf.entriesValid {flagId : Byte} {p : Program} {t : FlagTable} (h : TableOf flagId p t) :
    FlagEntriesValid flagId p t := by
  intro l k hk
  have hl := h l
  rw [hk] at hl
  exact hl.1

theorem FlagEntriesValid.of_take {flagId : Byte} {p : Program} {t : FlagTable} {n : Nat}
    (h : FlagEntriesValid flagId (p.take n) t) : FlagEntriesValid flagId p t := by
  intro l k hk
  obtain ⟨f, hf, hd⟩ := h l k hk
  rw [List.getElem?_take] at hf
  split at hf
  · exact ⟨f, hf, hd⟩
  · cases hf

/-! ### The scan -/

/-- Over frames that are no malformed flag frames the scan goes on, with the table of all the frames before. -/
theorem scanFlags_append {flagId : Byte} (fs : Program) {p : Program} {t : FlagTable} (ht : TableOf flagId p t)
    (hfs : FlagsWellFormed flagId fs) :
    ∃ t', TableOf flagId (p ++ fs) t' ∧
      ∀ rest, scanFlags flagId (fs ++ rest) p.length t = scanFlags flagId rest (p ++ fs).length t' := by
  induction fs generalizing p t with
  | nil => exact ⟨t, by rwa [List.append_nil], fun rest => by rw [List.append_nil, List.nil_append]⟩
  | cons f fs ih =>
    obtain ⟨hf, hfs⟩ := flagsWellFormed_cons.mp hfs
    have hnext : ∃ t₁, TableOf flagId (p ++ [f]) t₁ ∧
        ∀ rest, scanFlags flagId (f :: rest) p.length t = scanFlags flagId rest (p ++ [f]).length t₁ := by
      simp only [List.length_append, List.length_singleton]
      obtain ⟨hd, -, hno⟩ | ⟨l, hd, -, hl⟩ | ⟨-, hm⟩ := declarationOf_cases flagId f
      · exact ⟨t, ht.concat_nothing hno, fun rest => by simp [scanFlags, hd]⟩
      · exact ⟨_, ht.concat_label hl, fun rest => by simp [scanFlags, hd]⟩
      · exact absurd hm hf
    obtain ⟨t₁, ht₁, hscan₁⟩ := hnext
    obtain ⟨t', ht', hscan⟩ := ih ht₁ hfs
    rw [List.append_assoc, List.singleton_append] at ht' hscan
    exact ⟨t', ht', fun rest => (hscan₁ (fs ++ rest)).trans (hscan rest)⟩

/-- The scan of a program whose flag frames all carry a label (40_flag_table R82). -/
theorem scanFlags_wellFormed {flagId : Byte} {p : Program} (h : FlagsWellFormed flagId p) :
    ∃ t, TableOf flagId p t ∧ scanFlags flagId p 0 FlagTable.clear = (t, none) := by
  obtain ⟨t, ht, hscan⟩ := scanFlags_append p (tableOf_clear flagId) h
  exact ⟨t, ht, by simpa [scanFlags] using hscan []⟩

/-- The scan of a program up to its first malformed flag frame (40_flag_table R80, R85). -/
theorem scanFlags_firstMalformed {flagId : Byte} {p : Program} {k : Nat} {f : Frame} (h : FirstMalformed flagId p k f) :
    ∃ t, TableOf flagId (p.take k) t ∧ scanFlags flagId p 0 FlagTable.clear = (t, some (malformedMsg f)) := by
  obtain ⟨hf, hm, hw⟩ := h
  obtain ⟨t, ht, hscan⟩ := scanFlags_append (p.take k) (tableOf_clear flagId) hw
  obtain ⟨hk, rfl⟩ := List.getElem?_eq_some_iff.mp hf
  have hp : p = p.take k ++ p[k] :: p.drop (k + 1) := by rw [← List.drop_eq_getElem_cons hk, List.take_append_drop]
  refine ⟨t, ht, ?_⟩
  obtain ⟨-, hno, -⟩ | ⟨-, -, hno, -⟩ | ⟨hd, -⟩ := declarationOf_cases flagId p[k]
  · exact absurd hm hno
  · exact absurd hm hno
  · calc scanFlags flagId p 0 FlagTable.clear
        = scanFlags flagId (p.take k ++ p[k] :: p.drop (k + 1)) 0 FlagTable.clear := by rw [← hp]
      _ = scanFlags flagId (p[k] :: p.drop (k + 1)) ([] ++ p.take k).length t := hscan _
      _ = (t, some (malformedMsg p[k])) := by simp [scanFlags, hd, malformedMsg]

/-! ### REBUILD -/

theorem malformedMsg_kind (f : Frame) : (malformedMsg f).kind = .malformedProgram := by
  unfold malformedMsg
  split <;> rfl

theorem malformedMsg_ne_none (f : Frame) : malformedMsg f ≠ .none := by
  unfold malformedMsg
  split <;> decide

theorem State.raise_malformedMsg (s : State) (f : Frame) :
    s.raise (malformedMsg f) = raised s .malformedProgram (malformedMsg f) := by
  rw [State.raise_eq_raised, malformedMsg_kind]

theorem State.rebuild_wellFormed {s : State} (h : FlagsWellFormed s.params.flagId s.program) :
    ∃ t, TableOf s.params.flagId s.program t ∧ s.rebuild = { s with flag := t } := by
  obtain ⟨t, ht, hscan⟩ := scanFlags_wellFormed h
  exact ⟨t, ht, by simp [State.rebuild, hscan, State.unless]⟩

theorem State.rebuild_firstMalformed {s : State} {k : Nat} {f : Frame}
    (h : FirstMalformed s.params.flagId s.program k f) :
    ∃ t, TableOf s.params.flagId (s.program.take k) t ∧
      s.rebuild = raised { s with flag := t } .malformedProgram (malformedMsg f) := by
  obtain ⟨t, ht, hscan⟩ := scanFlags_firstMalformed h
  exact ⟨t, ht, by rw [← State.raise_malformedMsg]; simp [State.rebuild, hscan, State.unless]⟩

theorem exec_rebuild {s : State} (h : s.fsm = .ready ∨ s.fsm = .running) : exec .rebuild s = .next s.rebuild := by
  obtain h | h := h <;> simp [exec, execRebuild, h]

/-- Settles O12: the scan over the frames before the first malformed one, which are all of them or end at index `k`. -/
theorem rebuildScansInOrder : Obligations.RebuildScansInOrder := by
  refine ⟨fun s hs hw => ?_, fun s k f hs hm => ?_, fun _ _ => exists_firstMalformed⟩
  · obtain ⟨t, ht, e⟩ := State.rebuild_wellFormed hw
    exact ⟨_, (exec_rebuild hs).trans (congrArg _ e), rfl, ht⟩
  · obtain ⟨t, ht, e⟩ := State.rebuild_firstMalformed hm
    exact ⟨_, (exec_rebuild hs).trans (congrArg _ e), ht, rfl⟩

/-! ### ENTER and the commands that rebuild -/

theorem State.enter_wellFormed {s : State} (h : FlagsWellFormed s.params.flagId s.program) :
    ∃ t, TableOf s.params.flagId s.program t ∧
      s.enter = { s with fsm := .running, sp := 0, ip := 0, flag := t } :=
  State.rebuild_wellFormed (s := { s with fsm := .running, sp := 0, ip := 0 }) h

theorem State.enter_firstMalformed {s : State} {k : Nat} {f : Frame}
    (h : FirstMalformed s.params.flagId s.program k f) :
    ∃ t, TableOf s.params.flagId (s.program.take k) t ∧
      s.enter = raised { s with sp := 0, ip := 0, flag := t } .malformedProgram (malformedMsg f) :=
  State.rebuild_firstMalformed (s := { s with fsm := .running, sp := 0, ip := 0 }) h

theorem exec_enter {s : State} (h : s.fsm = .ready) : exec .enter s = .next s.enter := by
  simp [exec, execEnter, h]

theorem exec_attach {s : State} {p : Program} (h : s.fsm = .ready) (hp : p.length < 2 ^ 32) :
    exec (.attach p) s = .next ((State.rebuild { s with program := p, ip := 0 }).deliver .done) :=
  congrArg _ (if_pos ⟨h, fits_iff.mpr hp⟩)

theorem exec_run {s : State} (h : s.fsm = .ready) (hp : s.program ≠ []) :
    exec .run s = .next (s.enter.deliver .none) :=
  congrArg _ ((if_pos h).trans (if_neg fun h0 => hp (List.length_eq_zero_iff.mp h0)))

theorem exec_run_empty {s : State} (h : s.fsm = .ready) (hp : s.program = []) :
    exec .run s = .next ((s.raise .emptyProgram).deliver .none) :=
  congrArg _ ((if_pos h).trans (if_pos (List.length_eq_zero_iff.mpr hp)))

theorem exec_runp {s : State} {p : Program} (h : s.fsm = .ready) (hne : p ≠ []) (hp : p.length < 2 ^ 32) :
    exec (.runp p) s = .next ((State.enter { s with program := p }).deliver .none) :=
  congrArg _ ((if_pos ⟨h, fits_iff.mpr hp⟩).trans (if_neg fun h0 => hne (List.length_eq_zero_iff.mp h0)))

theorem exec_runp_empty {s : State} (h : s.fsm = .ready) :
    exec (.runp []) s = .next ((s.raise .emptyProgram).deliver .none) :=
  congrArg _ ((if_pos ⟨h, fits_iff.mpr (by decide)⟩).trans (if_pos rfl))

theorem next_deliver_congr {u v : State} (r : Reply) (e : u = v) : (.next (u.deliver r) : Out) = .next (v.deliver r) := by
  rw [e]

/-- Settles O13. -/
theorem enterResetsPointers : Obligations.EnterResetsPointers := by
  refine fun s hs => ⟨fun hw => ?_, fun k f hm => ?_⟩
  · obtain ⟨t, ht, e⟩ := State.enter_wellFormed hw
    exact ⟨_, (exec_enter hs).trans (congrArg _ e), rfl, ht⟩
  · obtain ⟨t, ht, e⟩ := State.enter_firstMalformed hm
    exact ⟨_, (exec_enter hs).trans (congrArg _ e), ht, rfl⟩

/-- Settles O5. -/
theorem attachBuildsTable : Obligations.AttachBuildsTable := by
  refine fun s p hs hp => ⟨fun hw => ?_, fun k f hm => ?_⟩
  · obtain ⟨t, ht, e⟩ := State.rebuild_wellFormed (s := { s with program := p, ip := 0 }) hw
    exact ⟨_, (exec_attach hs hp).trans (next_deliver_congr .done e), rfl, ht⟩
  · obtain ⟨t, ht, e⟩ := State.rebuild_firstMalformed (s := { s with program := p, ip := 0 }) hm
    exact ⟨_, (exec_attach hs hp).trans (next_deliver_congr .done e), ht, rfl⟩

/-- Settles O6. -/
theorem runEntersRunning : Obligations.RunEntersRunning := by
  refine fun s hs hne => ⟨fun hw => ?_, fun k f hm => ?_⟩
  · obtain ⟨t, ht, e⟩ := State.enter_wellFormed hw
    exact ⟨_, (exec_run hs hne).trans (next_deliver_congr .none e), rfl, ht⟩
  · obtain ⟨t, ht, e⟩ := State.enter_firstMalformed hm
    exact ⟨_, (exec_run hs hne).trans (next_deliver_congr .none e), ht, rfl⟩

/-- Settles O8: RUN on the program it is given. -/
theorem runpEntersRunning : Obligations.RunpEntersRunning := by
  refine fun s p hs hne hp => ⟨fun hw => ?_, fun k f hm => ?_⟩
  · obtain ⟨t, ht, e⟩ := State.enter_wellFormed (s := { s with program := p }) hw
    exact ⟨_, (exec_runp hs hne hp).trans (next_deliver_congr .none e), rfl, ht⟩
  · obtain ⟨t, ht, e⟩ := State.enter_firstMalformed (s := { s with program := p }) hm
    exact ⟨_, (exec_runp hs hne hp).trans (next_deliver_congr .none e), ht, rfl⟩

/-- Settles O7: the emptiness is tested before ENTER and before the argument replaces the program. -/
theorem emptyProgramFaultsBeforeMutation : Obligations.EmptyProgramFaultsBeforeMutation :=
  ⟨fun _ hs hp => ⟨_, exec_run_empty hs hp⟩, fun _ hs => ⟨_, exec_runp_empty hs⟩⟩

end Sys2Proof.Machine

/-! PROOFS. 44_fetch_execute R116: DISPATCH, one equation for each of its three cases, under every opcode table. -/

namespace Sys2Proof.Machine

theorem dispatchUnder_no_frame (T : OpTable) {s : State} (hr : s.fsm = .running) (hf : s.frame = []) :
    dispatchUnder T s = .refused .noOpcode := by
  simp only [dispatchUnder, inCycle_running hr, hf]

theorem dispatchUnder_miss {T : OpTable} {s : State} {b : Byte} {r : List Byte} (hr : s.fsm = .running)
    (hf : s.frame = b :: r) (h : b = s.params.flagId ∨ T b = none) :
    dispatchUnder T s = .next (s.raise .unknownOpcode) := by
  have hnone : (if b = s.params.flagId then none else T b) = none := by
    obtain hb | hT := h
    · exact if_pos hb
    · rw [hT, ite_self]
  simp only [dispatchUnder, inCycle_running hr, hf, hnone]

theorem dispatchUnder_bound {T : OpTable} {s : State} {b : Byte} {r : List Byte} {h : Frame → Handler}
    (hr : s.fsm = .running) (hf : s.frame = b :: r) (hb : b ≠ s.params.flagId) (hT : T b = some h) :
    dispatchUnder T s = whileRunning execFinish (runHandler (h (b :: r)) s) := by
  simp only [dispatchUnder, inCycle_running hr, hf, if_neg hb, hT]

/-- A byte that is no miss has a handler. -/
theorem bound_of_not_miss {T : OpTable} {flagId b : Byte} (h : ¬ (b = flagId ∨ T b = none)) :
    b ≠ flagId ∧ ∃ hd, T b = some hd := by
  obtain ⟨hb, hT⟩ := not_or.mp h
  exact ⟨hb, Option.ne_none_iff_exists'.mp hT⟩

end Sys2Proof.Machine

/-! PROOFS. Two induction principles: what every event of a cycle keeps is kept by a dispatch and by a whole frame under any
table, and what every event of an operation keeps is kept by `exec`, but for a legal INITIALIZE. -/

namespace Sys2Proof.Machine

/-! ### Within a cycle -/

/-- `P` is kept by everything that can happen to the state in a cycle (44_fetch_execute R113 to R119). -/
structure KeptInCycle (P : State → Prop) : Prop where
  raise : ∀ {s} m, P s → m ≠ MsgId.none → P (s.raise m)
  effect : ∀ {s t}, P s → s.fsm = .running → PrimEffect s t → P t
  advance : ∀ {s}, P s → s.ip + 1 < s.program.length → P { s with ip := s.ip + 1 }
  halt : ∀ {s}, P s → s.fsm = .running → s.halt ≠ 0 → P { s with cycles := s.cycles + 1, fsm := .halted }
  /-- the frame a cycle or OP holds, and the latch a cycle clears -/
  hold : ∀ {s} f w, P s → P { s with frame := f, ipWritten := w }
  count : ∀ {s}, P s → s.fsm = .running → P { s with cycles := s.cycles + 1 }

namespace KeptInCycle

variable {P : State → Prop}

theorem advance_keeps (hP : KeptInCycle P) {s : State} (hs : P s) : P s.advance := by
  obtain ⟨hlt, e⟩ | ⟨-, e⟩ := s.advance_cases <;> rw [e]
  · exact hP.advance hs hlt
  · exact hP.raise _ hs (by decide)

theorem finish_keeps (hP : KeptInCycle P) {s : State} (hs : P s) (hr : s.fsm = .running) : P s.finish := by
  obtain ⟨hh, e⟩ | ⟨-, -, e⟩ | ⟨-, -, e⟩ := s.finish_cases <;> rw [e]
  · exact hP.halt hs hr hh
  · exact hs
  · exact hP.advance_keeps hs

theorem endCycle_keeps (hP : KeptInCycle P) {s : State} (hs : P s) : P s.endCycle := by
  obtain ⟨hr, e⟩ | ⟨-, e⟩ := s.endCycle_cases <;> rw [e]
  · exact hP.count hs hr
  · exact hs

theorem perform_keeps (hP : KeptInCycle P) {p : Prim} {s t : State} (hs : P s) (h : perform p s = .next t) : P t := by
  obtain ⟨hr, ⟨m, hm, rfl⟩ | he⟩ := perform_cases h
  · exact hP.raise m hs hm
  · exact hP.effect hs hr he

theorem dispatch_keeps (hP : KeptInCycle P) {T : OpTable} {s t : State} (hs : P s) (h : dispatchUnder T s = .next t) :
    P t :=
  dispatchUnder_induction (fun _ m hs hm _ => hP.raise m hs hm) (fun _ _ => hP.effect)
    (fun _ hs _ => hP.advance hs) (fun _ => hP.halt) hs h

theorem runFrame_keeps (hP : KeptInCycle P) {T : OpTable} {f : Frame} {s t : State} (hs : P s)
    (h : runFrameUnder T f (s.beginCycle f) = .next t) : P t := by
  have hbegin : P (s.beginCycle f) := hP.hold f false hs
  obtain ⟨-, rfl | hd⟩ := runFrameUnder_cases rfl h
  · exact hP.advance_keeps hbegin
  · exact hP.dispatch_keeps hbegin hd

end KeptInCycle

/-! ### Every operation -/

/-- `P` is kept by everything that an operation other than a legal INITIALIZE can do to the state. -/
structure KeptByExec (P : State → Prop) : Prop extends KeptInCycle P where
  flag : ∀ {s} t, P s → P { s with flag := t }
  enter : ∀ {s}, P s → P { s with fsm := .running, sp := 0, ip := 0 }
  program : ∀ {s} p k, P s → P { s with program := p, ip := k }
  reply : ∀ {s} r, P s → P { s with reply := r }

namespace KeptByExec

variable {P : State → Prop}

theorem rebuild_keeps (hP : KeptByExec P) {s : State} (hs : P s) : P s.rebuild := by
  by_cases hw : FlagsWellFormed s.params.flagId s.program
  · obtain ⟨t, -, e⟩ := State.rebuild_wellFormed hw
    rw [e]
    exact hP.flag t hs
  · obtain ⟨k, f, hm⟩ := exists_firstMalformed hw
    obtain ⟨t, -, e⟩ := State.rebuild_firstMalformed hm
    rw [e, ← State.raise_malformedMsg]
    exact hP.raise _ (hP.flag t hs) (malformedMsg_ne_none f)

theorem enter_keeps (hP : KeptByExec P) {s : State} (hs : P s) : P s.enter := hP.rebuild_keeps (hP.enter hs)

/-- The second case is the legal INITIALIZE, outside a run. -/
theorem exec_keeps (hP : KeptByExec P) {i : Instr} {s t : State} (hs : P s) (h : exec i s = .next t) :
    P t ∨ ∃ a h k : Int, i = .init a h k ∧ s.fsm ≠ .running ∧ (a ≥ 1 ∧ h ≥ 0 ∧ k ≥ 1) ∧
      t = s.initialized { archBits := a.toNat, heapSize := h.toNat, stackSize := k.toNat } := by
  cases exec_cases h with
  | initialized a m k hr hc => exact .inr ⟨a, m, k, rfl, hr, hc, rfl⟩
  | primitive p _ hp => exact .inl (hP.perform_keeps hs hp)
  | empty | flag | advance => exact .inl (hP.advance_keeps hs)
  | finish hr => exact .inl (hP.finish_keeps hs hr)
  | op b r hd => exact .inl (hP.dispatch_keeps (hP.hold (b :: r) s.ipWritten hs) hd)
  | dispatch hd => exact .inl (hP.dispatch_keeps hs hd)
  | cycle _ _ hu => exact .inl (hP.endCycle_keeps (hP.runFrame_keeps hs hu))
  | rebuild => exact .inl (hP.rebuild_keeps hs)
  | enter => exact .inl (hP.enter_keeps hs)
  | result | refused | snapshot => exact .inl (hP.reply _ hs)
  | attach p => exact .inl (hP.reply _ (hP.rebuild_keeps (hP.program p 0 hs)))
  | run => exact .inl (hP.reply _ (hP.enter_keeps hs))
  | runp p => exact .inl (hP.reply _ (hP.enter_keeps (hP.program p s.ip hs)))
  | runEmpty | runpEmpty => exact .inl (hP.reply _ (hP.raise _ hs (by decide)))

end KeptByExec

end Sys2Proof.Machine

/-! PROOFS. 10_state R27: the invariants, at reset, along every step, and what they are good for: a step always answers. -/

namespace Sys2Proof.Machine

/-! ### At reset and after INITIALIZE -/

theorem flagsWellFormed_nil (flagId : Byte) : FlagsWellFormed flagId [] := nofun

theorem getReg_reset (i : Fin 4) : State.reset.getReg i = 0 := by
  simp [State.getReg, State.reset]

/-- INITIALIZE with legal sizes leaves an initialized machine (70_reset R170). -/
theorem State.initialized_initialized (s : State) {cfg : Cfg} (ha : 1 ≤ cfg.archBits) (hk : 1 ≤ cfg.stackSize) :
    Initialized (s.initialized cfg) where
  sp_lt := hk
  regs_lt i := by
    show State.reset.getReg i < 2 ^ cfg.archBits
    rw [getReg_reset]
    exact Nat.two_pow_pos _
  ip_running := nofun
  ip_any := .inl rfl
  halt_zero _ := rfl
  halt_nonzero := nofun
  fault_clear _ := rfl
  fault_set := nofun
  flag_valid := (tableOf_clear _).entriesValid
  flag_last _ := tableOf_clear _
  flags_well_formed _ := flagsWellFormed_nil _
  arch_pos := ha
  stack_cells := nofun
  heap_cells := nofun
  program_fits := Nat.two_pow_pos 32
  sp_ready _ := rfl

theorem State.initialized_inv {s : State} {cfg : Cfg} (hl : s.params.legal) (ha : 1 ≤ cfg.archBits)
    (hk : 1 ≤ cfg.stackSize) : (s.initialized cfg).Inv :=
  ⟨hl, rfl, rfl, .inr (s.initialized_initialized ha hk)⟩

/-- The state after reset is that after INITIALIZE, but for the fields of the model's own, which no invariant reads. -/
theorem Initialized.reset : Initialized State.reset :=
  { State.initialized_initialized State.reset (cfg := State.reset.cfg) (by decide) (by decide) with }

/-- Settles O52. -/
theorem resetMeetsInvariant : Obligations.ResetMeetsInvariant :=
  ⟨params_legal, rfl, rfl, .inr .reset⟩

/-! ### In the middle of a cycle

A handler may set `halt` before the run ends (44_fetch_execute R127), so within a cycle `Initialized.halt_zero` is suspended
until FINISH looks at the signal. The rest is kept by every event. -/

/-- What holds from the start of a cycle to its end, whatever handlers do. -/
structure MidCycle (s : State) : Prop where
  legal : s.params.legal
  stack_wf : s.stack.wf = true
  heap_wf : s.heap.wf = true
  fsm : s.fsm = .running ∨ s.fsm = .halted ∨ s.fsm = .faulted
  sp_lt : s.sp < s.cfg.stackSize
  regs_lt : ∀ i : Fin 4, s.getReg i < 2 ^ s.cfg.archBits
  ip_lt : s.ip < s.program.length
  halt_nonzero : s.fsm = .halted → s.halt ≠ 0
  fault_clear : s.fsm ≠ .faulted → s.fault = FaultRecord.clear
  fault_set : s.fsm = .faulted → ∃ m, m ≠ MsgId.none ∧ s.fault = { kind := m.kind, msg := m, status := s.params.faultStatus }
  table : TableOf s.params.flagId s.program s.flag
  flags_well_formed : FlagsWellFormed s.params.flagId s.program
  arch_pos : 1 ≤ s.cfg.archBits
  stack_cells : ∀ a, (s.stack.get? a).isSome → 1 ≤ a ∧ a < s.cfg.stackSize
  heap_cells : ∀ a, (s.heap.get? a).isSome → a < s.cfg.heapSize
  program_fits : s.program.length < Config.programLimit

theorem State.Inv.legal {s : State} (h : s.Inv) : s.params.legal := h.1

theorem State.Inv.stack_wf {s : State} (h : s.Inv) : s.stack.wf = true := h.2.1

theorem State.Inv.heap_wf {s : State} (h : s.Inv) : s.heap.wf = true := h.2.2.1

theorem State.Inv.initialized {s : State} (h : s.Inv) (hs : s.fsm ≠ .off) : Initialized s := by
  obtain ⟨-, -, -, hoff | hi⟩ := h
  · exact absurd hoff hs
  · exact hi

theorem State.Inv.running {s : State} (h : s.Inv) (hr : s.fsm = .running) : Initialized s :=
  h.initialized (by rw [hr]; decide)

theorem State.Inv.midCycle {s : State} (h : s.Inv) (hr : s.fsm = .running) : MidCycle s :=
  have hi : Initialized s := h.running hr
  { hi with
    legal := h.legal
    stack_wf := h.stack_wf
    heap_wf := h.heap_wf
    fsm := .inl hr
    ip_lt := hi.ip_running hr
    table := hi.flag_last (.inr (.inl hr))
    flags_well_formed := hi.flags_well_formed (.inr (.inl hr)) }

/-- At the end of a cycle FINISH has looked at the signal, and the invariant is back. -/
theorem MidCycle.inv {s : State} (h : MidCycle s) (hh : s.fsm = .running → s.halt = 0) : s.Inv := by
  have hready : s.fsm ≠ .ready := fun hr => by simpa [hr] using h.fsm
  exact ⟨h.legal, h.stack_wf, h.heap_wf, .inr
    { h with
      ip_running := fun _ => h.ip_lt
      ip_any := .inr h.ip_lt
      halt_zero := fun hs => hs.elim (absurd · hready) hh
      flag_valid := h.table.entriesValid
      flag_last := fun _ => h.table
      flags_well_formed := fun _ => h.flags_well_formed
      sp_ready := (absurd · hready) }⟩

/-- A write adds no cell but its own. -/
theorem Memory.cells_write {m : Memory} {C : Nat → Prop} {a : Nat} (b : Byte) (hm : ∀ x, (m.get? x).isSome → C x)
    (ha : C a) : ∀ x, ((m.write a b).get? x).isSome → C x := by
  intro x hx
  by_cases hxa : x = a
  · rwa [hxa]
  · rw [Memory.get?_write_other m b hxa] at hx
    exact hm x hx

/-- What the flag table holds is an index of the program. -/
theorem MidCycle.lookup_lt {s : State} (h : MidCycle s) {l : Byte} {k : Nat} (hk : s.flag.lookup l = some k) :
    k < s.program.length := by
  obtain ⟨f, hf, -⟩ := h.table.entriesValid l k hk
  exact (List.getElem?_eq_some_iff.mp hf).1

theorem MidCycle.raise {s : State} (h : MidCycle s) (m : MsgId) (hm : m ≠ .none) : MidCycle (s.raise m) :=
  { h with
    fsm := .inr (.inr rfl)
    halt_nonzero := nofun
    fault_clear := fun hf => absurd rfl hf
    fault_set := fun _ => ⟨m, hm, rfl⟩ }

theorem MidCycle.effect {s t : State} (h : MidCycle s) (hr : s.fsm = .running) (he : PrimEffect s t) : MidCycle t := by
  have hhalted (hs : s.fsm = .halted) : False := nomatch hr.symm.trans hs
  cases he with
  | read v => exact { h with }
  | pushed b hlt =>
    exact { h with
      stack_wf := Memory.wf_write h.stack_wf _ b
      sp_lt := hlt
      stack_cells := Memory.cells_write b h.stack_cells ⟨Nat.le_add_left 1 s.sp, hlt⟩ }
  | spMoved k v hlt => exact { h with sp_lt := hlt }
  | heapWritten a b hlt =>
    exact { h with
      heap_wf := Memory.wf_write h.heap_wf a b
      heap_cells := Memory.cells_write b h.heap_cells hlt }
  | regWritten i v hlt =>
    refine { h with regs_lt := fun r => ?_ }
    show (s.setReg i v).getReg r < _
    rw [State.getReg_setReg]
    split
    · exact hlt
    · exact h.regs_lt r
  | jumped k hk => exact { h with ip_lt := hk.elim id fun ⟨_, hl⟩ => h.lookup_lt hl }
  | haltSet v => exact { h with halt_nonzero := fun hs => (hhalted hs).elim }

theorem midCycle_keptInCycle : KeptInCycle MidCycle where
  raise m hs hm := hs.raise m hm
  effect hs hr he := hs.effect hr he
  advance hs hlt := { hs with ip_lt := hlt }
  halt hs hr hh :=
    { hs with
      fsm := .inr (.inl rfl)
      halt_nonzero := fun _ => hh
      fault_clear := fun _ => hs.fault_clear (by rw [hr]; decide)
      fault_set := nofun }
  hold _ _ hs := { hs with }
  count hs _ := { hs with }

/-! ### At the end of a cycle -/

@[simp] theorem State.advance_halt (s : State) : s.advance.halt = s.halt := by
  obtain ⟨-, e⟩ | ⟨-, e⟩ := s.advance_cases <;> rw [e]
  rfl

/-- FINISH lets a run go on only where no halt was signalled (44_fetch_execute R117). -/
theorem State.finish_halt {s : State} (h : s.finish.fsm = .running) : s.finish.halt = 0 := by
  obtain ⟨-, e⟩ | ⟨hh, -, e⟩ | ⟨hh, -, e⟩ := s.finish_cases <;> rw [e] at h ⊢
  · cases h
  · exact hh
  · rwa [State.advance_halt]

theorem runFrameUnder_halt {T : OpTable} {f : Frame} {s t : State} (hs : s.halt = 0)
    (h : runFrameUnder T f (s.beginCycle f) = .next t) (hr : t.fsm = .running) : t.halt = 0 := by
  obtain ⟨-, rfl | hd⟩ := runFrameUnder_cases rfl h
  · rwa [State.advance_halt]
  · obtain ⟨-, rfl | ⟨_, u, -, ⟨-, rfl⟩ | ⟨hu, rfl⟩⟩⟩ := dispatchUnder_cases hd
    · cases hr
    · exact State.finish_halt hr
    · exact absurd hr hu

@[simp] theorem State.endCycle_fsm (s : State) : s.endCycle.fsm = s.fsm := by
  obtain ⟨-, e⟩ | ⟨-, e⟩ := s.endCycle_cases <;> rw [e]

@[simp] theorem State.endCycle_halt (s : State) : s.endCycle.halt = s.halt := by
  obtain ⟨-, e⟩ | ⟨-, e⟩ := s.endCycle_cases <;> rw [e]

/-- A cycle keeps the invariant, under any table. -/
theorem State.Inv.endCycle {T : OpTable} {f : Frame} {s u : State} (h : s.Inv) (hr : s.fsm = .running)
    (hu : runFrameUnder T f (s.beginCycle f) = .next u) : u.endCycle.Inv := by
  have hmid : MidCycle u := midCycle_keptInCycle.runFrame_keeps (h.midCycle hr) hu
  refine (midCycle_keptInCycle.endCycle_keeps hmid).inv fun he => ?_
  rw [State.endCycle_fsm] at he
  rw [State.endCycle_halt]
  exact runFrameUnder_halt ((h.running hr).halt_zero (.inr hr)) hu he

/-! ### The host's commands -/

/-- The host's queue and what it was told last are no part of the invariant. -/
theorem State.Inv.with_ports {s : State} (h : s.Inv) (r : Reply) (q : List HostCommand) :
    State.Inv { s with reply := r, inbox := q } := by
  obtain ⟨hl, hst, hhp, hoff | hi⟩ := h
  · exact ⟨hl, hst, hhp, .inl hoff⟩
  · exact ⟨hl, hst, hhp, .inr { hi with }⟩

theorem State.Inv.deliver {s : State} (h : s.Inv) (r : Reply) : (s.deliver r).Inv := h.with_ports _ s.inbox

/-- A fault keeps the invariant in every state but `Off`, which has none. -/
theorem State.Inv.raise {s : State} (h : s.Inv) (hs : s.fsm ≠ .off) {m : MsgId} (hm : m ≠ .none) : (s.raise m).Inv :=
  have hi : Initialized s := h.initialized hs
  ⟨h.legal, h.stack_wf, h.heap_wf, .inr
    { hi with
      ip_running := nofun
      halt_zero := nofun
      halt_nonzero := nofun
      fault_clear := fun hf => absurd rfl hf
      fault_set := fun _ => ⟨m, hm, rfl⟩
      flag_last := nofun
      flags_well_formed := nofun
      sp_ready := nofun }⟩

/-- ATTACH, RUN and RUNP set the program, `ip`, `sp` and `fsm` and rebuild: the table is then that of the new program, or the
program's malformed flag frame is the fault. -/
theorem State.Inv.rebuild {s : State} (h : s.Inv) (hr : s.fsm = .ready) {p : Program} {n : Nat} {F : Fsm}
    (hp : p.length < Config.programLimit) (hn : n = 0) (hF : F = .ready ∨ F = .running ∧ p ≠ []) :
    (State.rebuild { s with program := p, ip := 0, sp := n, fsm := F }).Inv := by
  have hi : Initialized s := h.initialized (by rw [hr]; decide)
  have hsp : 0 < s.cfg.stackSize := Nat.zero_lt_of_lt hi.sp_lt
  have hhalt : s.halt = 0 := hi.halt_zero (.inl hr)
  have hfault : s.fault = FaultRecord.clear := hi.fault_clear (by rw [hr]; decide)
  obtain ⟨hl, hst, hhp, -⟩ := h
  subst hn
  by_cases hw : FlagsWellFormed s.params.flagId p
  · obtain ⟨t, ht, e⟩ := State.rebuild_wellFormed (s := { s with program := p, ip := 0, sp := 0, fsm := F }) hw
    rw [e]
    exact ⟨hl, hst, hhp, .inr
      { hi with
        sp_lt := hsp
        ip_running := fun hs => List.length_pos_of_ne_nil (hF.elim (fun hF => nomatch hF.symm.trans hs) And.right)
        ip_any := .inl rfl
        halt_zero := fun _ => hhalt
        halt_nonzero := fun hs => by rcases hF with rfl | ⟨rfl, -⟩ <;> cases hs
        fault_clear := fun _ => hfault
        fault_set := fun hs => by rcases hF with rfl | ⟨rfl, -⟩ <;> cases hs
        flag_valid := ht.entriesValid
        flag_last := fun _ => ht
        flags_well_formed := fun _ => hw
        program_fits := hp
        sp_ready := fun _ => rfl }⟩
  · obtain ⟨k, f, hm⟩ := exists_firstMalformed hw
    obtain ⟨t, ht, e⟩ := State.rebuild_firstMalformed (s := { s with program := p, ip := 0, sp := 0, fsm := F }) hm
    rw [e, ← State.raise_malformedMsg]
    exact ⟨hl, hst, hhp, .inr
      { hi with
        sp_lt := hsp
        ip_running := nofun
        ip_any := .inl rfl
        halt_zero := nofun
        halt_nonzero := nofun
        fault_clear := fun hf => absurd rfl hf
        fault_set := fun _ => ⟨_, malformedMsg_ne_none f, rfl⟩
        flag_valid := ht.entriesValid.of_take
        flag_last := nofun
        flags_well_formed := nofun
        program_fits := hp
        sp_ready := nofun }⟩

/-- What a host command does: it tells the host something, resets the machine, finds no program to run, or rebuilds. -/
inductive CommandEffect (s : State) : Instr → State → Prop where
  | told {i : Instr} (r : Reply) : CommandEffect s i { s with reply := r }
  | initialized (a h k : Int) (cfg : Cfg) (ha : 1 ≤ cfg.archBits) (hk : 1 ≤ cfg.stackSize) :
      CommandEffect s (.init a h k) (s.initialized cfg)
  | emptyProgram {i : Instr} (hr : s.fsm = .ready) (r : Reply) : CommandEffect s i ((s.raise .emptyProgram).deliver r)
  | rebuilt {i : Instr} (hr : s.fsm = .ready) (p : Program) (n : Nat) (F : Fsm) (r : Reply)
      (hp : p = s.program ∨ p.length < Config.programLimit) (hn : n = 0 ∨ n = s.sp)
      (hF : F = .ready ∨ F = .running ∧ p ≠ []) :
      CommandEffect s i ((State.rebuild { s with program := p, ip := 0, sp := n, fsm := F }).deliver r)

theorem command_cases {i : Instr} {s t : State} (hi : isHostCommand i = true) (h : exec i s = .next t) :
    CommandEffect s i t := by
  cases exec_cases h with
  | refused => exact .told _
  | snapshot => exact .told _
  | initialized a m k _ hc => exact .initialized a m k _ (by show 1 ≤ a.toNat; omega) (by show 1 ≤ k.toNat; omega)
  | runEmpty hr | runpEmpty hr => exact .emptyProgram hr _
  | attach p hr hp => exact .rebuilt hr p s.sp s.fsm _ (.inr hp) (.inr rfl) (.inl hr)
  | run hr hp => exact .rebuilt hr s.program 0 .running _ (.inl rfl) (.inl rfl) (.inr ⟨rfl, hp⟩)
  | runp p hr hp hne => exact .rebuilt hr p 0 .running _ (.inr hp) (.inl rfl) (.inr ⟨rfl, hne⟩)
  | primitive p hip => subst hip; cases p <;> cases hi
  | empty | flag | advance | finish | op | dispatch | cycle | rebuild | enter | result => cases hi

theorem State.Inv.command {i : Instr} {s t : State} (h : s.Inv) (hi : isHostCommand i = true) (ht : exec i s = .next t) :
    t.Inv := by
  cases command_cases hi ht with
  | told r => exact h.with_ports _ s.inbox
  | initialized _ _ _ cfg ha hk => exact State.initialized_inv h.legal ha hk
  | emptyProgram hr r => exact (h.raise (by rw [hr]; decide) (by decide)).deliver r
  | rebuilt hr p n F r hp hn hF =>
    have hi : Initialized s := h.initialized (by rw [hr]; decide)
    have hfits : p.length < Config.programLimit := hp.elim (fun e => e ▸ hi.program_fits) id
    have hzero : n = 0 := hn.elim id fun e => e.trans (hi.sp_ready hr)
    exact (h.rebuild hr hfits hzero hF).deliver r

/-! ### The step -/

theorem isHostCommand_commandInstr (c : HostCommand) : isHostCommand (commandInstr c) = true := by cases c <;> rfl

theorem step_idle {s : State} (hs : s.fsm ≠ .running) (hq : s.inbox = []) : step s = .next s := by
  cases h : s.fsm <;> simp_all [step]

theorem step_command {s : State} {c : HostCommand} {rest : List HostCommand} (hs : s.fsm ≠ .running)
    (hq : s.inbox = c :: rest) : step s = exec (commandInstr c) { s with inbox := rest } := by
  cases h : s.fsm <;> simp_all [step]

/-- Settles O53: a cycle keeps what `MidCycle` says and ends with the signal examined; a host command keeps the invariant by
its four effects. -/
theorem stepKeepsInvariant : Obligations.StepKeepsInvariant := by
  intro s t h ht
  by_cases hr : s.fsm = .running
  · obtain ⟨f, hf⟩ := step_running_fetches hr ht
    rw [step_running hr hf] at ht
    obtain ⟨u, hu, rfl⟩ := mapNext_next.mp ht
    exact (h.endCycle hr hu).deliver _
  · cases hq : s.inbox with
    | nil => rw [step_idle hr hq] at ht; cases ht; exact h
    | cons c rest =>
      rw [step_command hr hq] at ht
      exact State.Inv.command (h.with_ports s.reply rest) (isHostCommand_commandInstr c) ht

/-! ### Answers -/

theorem State.fetch?_of_lt {s : State} (h : s.ip < s.program.length) : ∃ f, s.fetch? = some f :=
  ⟨_, List.getElem?_eq_getElem h⟩

theorem runFrameUnder_answers (T : OpTable) (f : Frame) {s : State} (hr : s.fsm = .running)
    (hsp : s.sp < s.cfg.stackSize) : ∃ t, runFrameUnder T f s = .next t := by
  unfold runFrameUnder
  split
  · exact ⟨_, inCycle_running hr _⟩
  · exact ⟨_, inCycle_running hr _⟩
  · next hc => exact dispatchUnder_answers T (s := { s with frame := f }) hr hsp (by rintro (rfl : f = []); cases hc)

theorem cycleUnder_running (T : OpTable) {s : State} {f : Frame} (hr : s.fsm = .running) (hf : s.fetch? = some f) :
    cycleUnder T s = mapNext State.endCycle (runFrameUnder T f (s.beginCycle f)) := by
  simp only [cycleUnder, inCycle_running hr, hf]

/-- In a run that meets the invariant a frame is fetched, and it is performed to an end, under any table. -/
theorem State.Inv.runFrame_answers {s : State} (h : s.Inv) (hr : s.fsm = .running) (T : OpTable) :
    ∃ f u, s.fetch? = some f ∧ runFrameUnder T f (s.beginCycle f) = .next u := by
  obtain ⟨f, hf⟩ := State.fetch?_of_lt ((h.running hr).ip_running hr)
  obtain ⟨u, hu⟩ := runFrameUnder_answers T f (s := s.beginCycle f) hr (h.running hr).sp_lt
  exact ⟨f, u, hf, hu⟩

theorem exec_command_answers (c : HostCommand) (s : State) : ∃ t, exec (commandInstr c) s = .next t := by
  cases c <;> exact ⟨_, rfl⟩

theorem State.Inv.step_answers {s : State} (h : s.Inv) : ∃ t, step s = .next t := by
  by_cases hr : s.fsm = .running
  · obtain ⟨f, u, hf, hu⟩ := h.runFrame_answers hr (opTable s.params)
    exact ⟨_, (step_running hr hf).trans (mapNext_next.mpr ⟨u, hu, rfl⟩)⟩
  · cases hq : s.inbox with
    | nil => exact ⟨s, step_idle hr hq⟩
    | cons c rest => rw [step_command hr hq]; exact exec_command_answers c _

theorem State.Inv.cycle_answers {s : State} (h : s.Inv) (hr : s.fsm = .running) (T : OpTable) :
    ∃ t, cycleUnder T s = .next t ∧ t.Inv := by
  obtain ⟨f, u, hf, hu⟩ := h.runFrame_answers hr T
  exact ⟨_, (cycleUnder_running T hr hf).trans (mapNext_next.mpr ⟨u, hu, rfl⟩), h.endCycle hr hu⟩

/-- Settles O54: the frame at `ip` is no malformed flag frame, so it decodes; the stack pointer is in the stack, so whatever
handler is performed answers. -/
theorem stepAlwaysAnswers : Obligations.StepAlwaysAnswers := by
  refine ⟨fun s h hr => ?_, fun _ h => h.step_answers, fun T _ h hr => h.cycle_answers hr T, fun _ => rfl⟩
  have hi : Initialized s := h.running hr
  obtain ⟨f, hf⟩ := State.fetch?_of_lt (hi.ip_running hr)
  have hwf : ¬ Malformed s.params.flagId f := hi.flags_well_formed (.inr (.inl hr)) f (List.mem_of_getElem? hf)
  obtain ⟨i, hdec⟩ := exists_decodeFrame_iff.mpr hwf
  exact ⟨f, i, hf, hdec, (encodeFrame_of_decodeFrame hdec).2⟩

end Sys2Proof.Machine

/-! PROOFS. What each kind of operation leaves unchanged: handlers, cycles, host commands, ended runs; the configuration, the
counter, the fault record and the canonical form of the memories. -/

namespace Sys2Proof.Machine

/-! ### Handlers and cycles -/

/-- The elements no event of a cycle writes. -/
structure RunConstants where
  program : Program
  flag : FlagTable
  cfg : Cfg
  params : Params
  reply : Reply
  inbox : List HostCommand
  draw : Nat

def State.constants (s : State) : RunConstants :=
  { program := s.program, flag := s.flag, cfg := s.cfg, params := s.params, reply := s.reply, inbox := s.inbox,
    draw := s.draw }

theorem PrimEffect.constants_eq {s t : State} (h : PrimEffect s t) : t.constants = s.constants := by cases h <;> rfl

theorem constants_keptInCycle (c : RunConstants) : KeptInCycle fun s => s.constants = c where
  raise _ hs _ := hs
  effect hs _ he := he.constants_eq.trans hs
  advance hs _ := hs
  halt hs _ _ := hs
  hold _ _ hs := hs
  count hs _ := hs

/-- In Faulted the record holds a message, its kind and the status of the parameters (60_exceptions R154). -/
def State.FaultRecorded (s : State) : Prop :=
  s.fsm = .faulted →
    ∃ m, m ≠ MsgId.none ∧ s.fault = { kind := m.kind, msg := m, status := s.params.faultStatus }

theorem State.raise_faultRecorded (s : State) {m : MsgId} (hm : m ≠ .none) : (s.raise m).FaultRecorded :=
  fun _ => ⟨m, hm, rfl⟩

/-- What a handler can do to the elements it does not own: nothing, and to `fsm` and the record a fault. -/
structure HandlerKeeps (s t : State) : Prop where
  constants : t.constants = s.constants
  cycles : t.cycles = s.cycles
  frame : t.frame = s.frame
  fsm : (t.fsm = s.fsm ∧ t.fault = s.fault) ∨ (t.fsm = .faulted ∧ t.FaultRecorded)

theorem HandlerKeeps.refl (s : State) : HandlerKeeps s s := ⟨rfl, rfl, rfl, .inl ⟨rfl, rfl⟩⟩

theorem HandlerKeeps.raise {s u : State} (h : HandlerKeeps s u) {m : MsgId} (hm : m ≠ .none) :
    HandlerKeeps s (u.raise m) :=
  ⟨h.constants, h.cycles, h.frame, .inr ⟨rfl, u.raise_faultRecorded hm⟩⟩

theorem HandlerKeeps.effect {s u v : State} (h : HandlerKeeps s u) (he : PrimEffect u v) : HandlerKeeps s v := by
  cases he <;> exact ⟨h.constants, h.cycles, h.frame, h.fsm⟩

theorem runHandler_keeps {h : Handler} {s t : State} (ht : runHandler h s = .next t) : HandlerKeeps s t :=
  runHandler_induction (P := HandlerKeeps s) (fun _ _ hu hm _ => hu.raise hm) (fun _ _ hu _ he => hu.effect he)
    h s t (.refl s) ht

/-- Settles O24. -/
theorem handlerReachesOnlyItsState : Obligations.HandlerReachesOnlyItsState := by
  intro h s t ht
  obtain ⟨hc, hcycles, hframe, hfsm⟩ := runHandler_keeps ht
  have hparams : t.params = s.params := congrArg RunConstants.params hc
  refine ⟨congrArg RunConstants.program hc, congrArg RunConstants.flag hc, hcycles, congrArg RunConstants.cfg hc, hparams,
    hframe, congrArg RunConstants.reply hc, congrArg RunConstants.inbox hc, congrArg RunConstants.draw hc,
    hfsm.imp_right fun ⟨hf, hrec⟩ => ⟨hf, ?_⟩⟩
  rw [← hparams]
  exact hrec hf

/-- Settles O50. -/
theorem runKeepsProgramAndTable : Obligations.RunKeepsProgramAndTable := by
  intro s t hr ht
  obtain ⟨f, hf⟩ := step_running_fetches hr ht
  rw [step_running hr hf] at ht
  obtain ⟨u, hu, rfl⟩ := mapNext_next.mp ht
  have hkept := constants_keptInCycle s.constants
  have hc : u.endCycle.constants = s.constants := hkept.endCycle_keeps (hkept.runFrame_keeps rfl hu)
  exact ⟨congrArg RunConstants.program hc, congrArg RunConstants.flag hc, congrArg RunConstants.params hc,
    congrArg RunConstants.inbox hc, congrArg RunConstants.draw hc⟩

/-! ### Every operation -/

/-- What no operation but INITIALIZE writes; and INITIALIZE writes `cfg` alone of the two. -/
def State.settings (s : State) : Params × Cfg := (s.params, s.cfg)

theorem settings_keptByExec (c : Params × Cfg) : KeptByExec fun s => s.settings = c where
  raise _ hs _ := hs
  effect hs _ he := (congrArg (fun k : RunConstants => (k.params, k.cfg)) he.constants_eq).trans hs
  advance hs _ := hs
  halt hs _ _ := hs
  hold _ _ hs := hs
  count hs _ := hs
  flag _ hs := hs
  enter hs := hs
  program _ _ hs := hs
  reply _ hs := hs

theorem faultRecorded_keptByExec : KeptByExec State.FaultRecorded where
  raise _ _ hm := State.raise_faultRecorded _ hm
  effect _ hr he := fun hf => nomatch (he.fsm_eq.trans hr).symm.trans hf
  advance hs _ := hs
  halt _ _ _ := nofun
  hold _ _ hs := hs
  count hs _ := hs
  flag _ hs := hs
  enter _ := nofun
  program _ _ hs := hs
  reply _ hs := hs

/-- Both memories are in the model's canonical form (log 3). -/
def State.Canonical (s : State) : Prop := s.stack.wf = true ∧ s.heap.wf = true

theorem PrimEffect.canonical {s t : State} (h : PrimEffect s t) (hs : s.Canonical) : t.Canonical := by
  obtain ⟨hst, hhp⟩ := hs
  cases h with
  | pushed b => exact ⟨Memory.wf_write hst _ b, hhp⟩
  | heapWritten a b => exact ⟨hst, Memory.wf_write hhp a b⟩
  | _ => exact ⟨hst, hhp⟩

theorem canonical_keptByExec : KeptByExec State.Canonical where
  raise _ hs _ := hs
  effect hs _ he := he.canonical hs
  advance hs _ := hs
  halt hs _ _ := hs
  hold _ _ hs := hs
  count hs _ := hs
  flag _ hs := hs
  enter hs := hs
  program _ _ hs := hs
  reply _ hs := hs

theorem exec_params {i : Instr} {s t : State} (h : exec i s = .next t) : t.params = s.params := by
  obtain hs | ⟨_, _, _, -, -, -, rfl⟩ := (settings_keptByExec s.settings).exec_keeps rfl h
  · exact congrArg Prod.fst hs
  · rfl

/-- Settles O45: every fault is a raise, which writes the record whole. -/
theorem faultRecordsKindAndStatus : Obligations.FaultRecordsKindAndStatus := by
  intro i s t h hs ht
  have hparams : t.params = s.params := exec_params h
  obtain hrec | ⟨_, _, _, -, -, -, rfl⟩ := faultRecorded_keptByExec.exec_keeps (fun hf => absurd hf hs) h
  · obtain ⟨m, hm, hfault⟩ := hrec ht
    rw [hparams] at hfault
    exact ⟨⟨m, hm, hfault⟩, hparams, fun hinv => by rw [hfault]; exact hinv.legal⟩
  · cases ht

/-- Settles O47. -/
theorem configurationLatchedByInitialize : Obligations.ConfigurationLatchedByInitialize := by
  intro i s t h
  obtain hs | ⟨a, m, k, rfl, hr, hlegal, rfl⟩ := (settings_keptByExec s.settings).exec_keeps rfl h
  · exact .inl (congrArg Prod.snd hs)
  · exact .inr ⟨a, m, k, hr, rfl, Int.toNat_of_nonneg (by omega), Int.toNat_of_nonneg (by omega),
      Int.toNat_of_nonneg (by omega)⟩

/-- Settles O51. -/
theorem memoriesStayCanonical : Obligations.MemoriesStayCanonical := by
  intro i s t hst hhp h
  obtain hc | ⟨_, _, _, -, -, -, rfl⟩ := canonical_keptByExec.exec_keeps ⟨hst, hhp⟩ h
  · exact hc
  · exact State.reset_memories_wf

/-! ### The cycle counter -/

@[simp] theorem State.advance_cycles (s : State) : s.advance.cycles = s.cycles := by
  obtain ⟨-, e⟩ | ⟨-, e⟩ := s.advance_cases <;> rw [e]
  rfl

@[simp] theorem State.rebuild_cycles (s : State) : s.rebuild.cycles = s.cycles := by
  obtain ⟨_, -, e⟩ | ⟨_, _, -, e⟩ := s.rebuild_cases <;> rw [e]
  rfl

@[simp] theorem State.enter_cycles (s : State) : s.enter.cycles = s.cycles := State.rebuild_cycles _

/-- Counted at most once: by FINISH, where the run halts, and not by the end of the cycle then. -/
def CountedOnce (s t : State) : Prop := t.cycles = s.cycles ∨ t.cycles = s.cycles + 1 ∧ t.fsm ≠ .running

theorem State.finish_countedOnce (s : State) : CountedOnce s s.finish := by
  obtain ⟨-, e⟩ | ⟨-, -, e⟩ | ⟨-, -, e⟩ := s.finish_cases <;> rw [e]
  · exact .inr ⟨rfl, nofun⟩
  · exact .inl rfl
  · exact .inl s.advance_cycles

theorem dispatchUnder_countedOnce {T : OpTable} {s t : State} (h : dispatchUnder T s = .next t) : CountedOnce s t := by
  obtain ⟨-, rfl | ⟨_, u, hu, ⟨-, rfl⟩ | ⟨-, rfl⟩⟩⟩ := dispatchUnder_cases h
  · exact .inl rfl
  · have hcount := u.finish_countedOnce
    rwa [CountedOnce, (runHandler_keeps hu).cycles] at hcount
  · exact .inl (runHandler_keeps hu).cycles

theorem runFrameUnder_countedOnce {T : OpTable} {f : Frame} {s t : State}
    (h : runFrameUnder T f (s.beginCycle f) = .next t) : CountedOnce s t := by
  obtain ⟨-, rfl | hd⟩ := runFrameUnder_cases rfl h
  · exact .inl (State.advance_cycles _)
  · exact (dispatchUnder_countedOnce hd : CountedOnce (s.beginCycle f) t)

theorem PrimEffect.cycles_eq {s t : State} (h : PrimEffect s t) : t.cycles = s.cycles := by cases h <;> rfl

theorem perform_cycles {p : Prim} {s t : State} (h : perform p s = .next t) : t.cycles = s.cycles := by
  obtain ⟨-, ⟨_, -, rfl⟩ | he⟩ := perform_cases h
  · rfl
  · exact he.cycles_eq

theorem CountedOnce.cycles {s t : State} (h : CountedOnce s t) : t.cycles = s.cycles ∨ t.cycles = s.cycles + 1 :=
  h.imp_right And.left

/-- Settles O48: a cycle that FINISH has counted has halted, so its end does not count it again. -/
theorem cycleCounterCountsByOne : Obligations.CycleCounterCountsByOne := by
  intro i s t hi h
  cases exec_cases h with
  | initialized a m k => exact absurd rfl (hi a m k)
  | primitive p _ hp => exact .inl (perform_cycles hp)
  | empty | flag | advance => exact .inl s.advance_cycles
  | finish => exact s.finish_countedOnce.cycles
  | op _ _ hd | dispatch hd => exact (dispatchUnder_countedOnce hd).cycles
  | @cycle f u _ _ hu =>
    obtain hc | ⟨hc, hr⟩ := runFrameUnder_countedOnce hu
    · obtain ⟨-, e⟩ | ⟨-, e⟩ := u.endCycle_cases <;> rw [e]
      · exact .inr (congrArg Nat.succ hc)
      · exact .inl hc
    · obtain ⟨hr', -⟩ | ⟨-, e⟩ := u.endCycle_cases
      · exact absurd hr' hr
      · rw [e]; exact .inr hc
  | rebuild | attach => exact .inl (State.rebuild_cycles _)
  | enter | run | runp => exact .inl (State.enter_cycles _)
  | result | refused | snapshot | runEmpty | runpEmpty => exact .inl rfl

/-! ### Ended runs -/

theorem perform_running {p : Prim} {s t : State} (h : perform p s = .next t) : s.fsm = .running := (perform_cases h).1

/-- Settles O46: what is admitted in an ended run is INITIALIZE, RESULT, SNAPSHOT and a refusal. -/
theorem endedRunIsFrozen : Obligations.EndedRunIsFrozen := by
  intro i s t hs hi h
  have hrunning : s.fsm ≠ .running := fun hr => by simp [hr] at hs
  have hready : s.fsm ≠ .ready := fun hr => by simp [hr] at hs
  cases exec_cases h with
  | result | refused | snapshot => rfl
  | initialized a m k => exact absurd rfl (hi a m k)
  | primitive p _ hp => exact absurd (perform_running hp) hrunning
  | op _ _ hd | dispatch hd => exact absurd (dispatchUnder_cases hd).1 hrunning
  | empty hr | flag _ _ hr | advance hr | finish hr | cycle hr => exact absurd hr hrunning
  | rebuild hr => exact hr.elim (absurd · hready) (absurd · hrunning)
  | enter hr | attach _ hr | run hr | runEmpty hr | runp _ hr | runpEmpty hr => exact absurd hr hready

/-! ### Host commands -/

/-- The elements a host command other than INITIALIZE leaves alone (60_exceptions R149). -/
structure HostConstants where
  regs : Vector Nat 4
  cycles : Nat
  halt : HaltWord
  cfg : Cfg
  stack : Memory
  heap : Memory
  params : Params
  ipWritten : Bool
  draw : Nat
  frame : Frame
  ret : Value
  inbox : List HostCommand

def State.hostConstants (s : State) : HostConstants :=
  { regs := s.regs, cycles := s.cycles, halt := s.halt, cfg := s.cfg, stack := s.stack, heap := s.heap, params := s.params,
    ipWritten := s.ipWritten, draw := s.draw, frame := s.frame, ret := s.ret, inbox := s.inbox }

@[simp] theorem State.rebuild_hostConstants (s : State) : s.rebuild.hostConstants = s.hostConstants := by
  obtain ⟨_, -, e⟩ | ⟨_, _, -, e⟩ := s.rebuild_cases <;> rw [e] <;> rfl

/-- Settles O11, by the effects a command can have. -/
theorem hostReachesNoHandlerState : Obligations.HostReachesNoHandlerState := by
  intro i s t hc hi h
  have hkept : t.hostConstants = s.hostConstants := by
    cases command_cases hc h with
    | told | emptyProgram => rfl
    | initialized a m k => exact absurd rfl (hi a m k)
    | rebuilt => exact State.rebuild_hostConstants _
  simpa [State.hostConstants] using hkept

end Sys2Proof.Machine

/-! PROOFS. Noninterference: nothing in a run depends on the cycle counter, and stack and heap do not see each other. -/

namespace Sys2Proof.Machine

/-! ### The cycle counter

`s.later n` is `s` with `n` cycles more counted. Every operation of a run commutes with it. -/

def State.later (s : State) (n : Nat) : State := { s with cycles := s.cycles + n }

/-- The same outcome with `n` cycles more. -/
def Later (n : Nat) (o : Out) : Out := mapNext (State.later · n) o

theorem inCycle_later {s : State} {n : Nat} {o o' : Out} (h : o' = Later n o) :
    inCycle (s.later n) o' = Later n (inCycle s o) := by
  cases hs : s.fsm <;> simp [inCycle, State.later, hs, h, Later, mapNext]

theorem whileRunning_later {n : Nat} {k : State → Out} (hk : ∀ t, k (t.later n) = Later n (k t)) (o : Out) :
    whileRunning k (Later n o) = Later n (whileRunning k o) := by
  cases o with
  | next u =>
    by_cases hu : u.fsm = .running
    · rw [whileRunning_running hu, ← hk u]
      exact whileRunning_running (u := u.later n) hu
    · rw [whileRunning_ended hu]
      exact whileRunning_ended (u := u.later n) hu
  | fault r => rfl
  | refused r => rfl

theorem mapNext_later {n : Nat} {g : State → State} (hg : ∀ t, g (t.later n) = (g t).later n) (o : Out) :
    mapNext g (Later n o) = Later n (mapNext g o) := by
  cases o with
  | next u => exact congrArg _ (hg u)
  | fault r => rfl
  | refused r => rfl

/-- A test that does not see the counter takes the same branch. -/
theorem ite_later {c : Prop} [Decidable c] {n : Nat} {o o' u u' : Out} (ho : o' = Later n o) (hu : u' = Later n u) :
    (if c then o' else u') = Later n (if c then o else u) := by
  rw [ho, hu, ← apply_ite (Later n)]

theorem next_ite_later {c : Prop} [Decidable c] {n : Nat} {s s' t t' : State} (hs : s' = s.later n)
    (ht : t' = t.later n) : (.next (if c then s' else t') : Out) = Later n (.next (if c then s else t)) := by
  rw [hs, ht, ← apply_ite (State.later · n)]
  rfl

theorem next_unless_later {n : Nat} {s t t' : State} {test : Option MsgId} (ht : t' = t.later n) :
    (.next ((s.later n).unless test t') : Out) = Later n (.next (s.unless test t)) := by
  rw [ht]
  cases test <;> rfl

theorem perform_later (p : Prim) (s : State) (n : Nat) : perform p (s.later n) = Later n (perform p s) := by
  cases p with
  | push _ | setip _ => exact inCycle_later (next_ite_later rfl rfl)
  | setsp _ | heaprd _ | heapwr _ _ => exact inCycle_later (next_unless_later rfl)
  | getsp | lookup _ | getip | sethalt _ => exact inCycle_later rfl
  | pop => exact inCycle_later (ite_later rfl (ite_later rfl rfl))
  | setreg i v =>
    refine inCycle_later ?_
    cases register? i with
    | none => rfl
    | some r => exact next_ite_later rfl rfl
  | getreg i => refine inCycle_later ?_; cases register? i <;> rfl
  | jmpflag l => refine inCycle_later ?_; dsimp only [State.later]; cases s.flag.lookup l <;> rfl
  | operand j => refine inCycle_later ?_; dsimp only [State.later, State.operand?]; cases s.frame[j]? <;> rfl

theorem runHandler_later (h : Handler) (s : State) (n : Nat) : runHandler h (s.later n) = Later n (runHandler h s) := by
  induction h generalizing s with
  | done => rfl
  | call p k ih =>
    show whileRunning _ (perform p (s.later n)) = _
    rw [perform_later]
    exact whileRunning_later (fun t => ih t.ret t) _

theorem State.advance_later (s : State) (n : Nat) : (s.later n).advance = s.advance.later n :=
  Host.Outcome.next.inj (next_ite_later rfl rfl)

theorem State.finish_later (s : State) (n : Nat) : (s.later n).finish = s.finish.later n := by
  obtain ⟨hh, e⟩ | ⟨hh, hw, e⟩ | ⟨hh, hw, e⟩ := s.finish_cases <;> rw [e]
  · refine (if_pos hh).trans ?_
    simp only [State.later, Nat.add_right_comm]
  · simp [State.finish, State.later, hh, hw]
  · rw [← State.advance_later]
    simp [State.finish, State.later, hh, hw]

theorem execFinish_later (s : State) (n : Nat) : execFinish (s.later n) = Later n (execFinish s) :=
  inCycle_later (congrArg Host.Outcome.next (s.finish_later n))

theorem State.endCycle_later (s : State) (n : Nat) : (s.later n).endCycle = s.endCycle.later n := by
  cases h : s.fsm <;> simp [State.endCycle, State.later, h, Nat.add_right_comm]

theorem dispatchUnder_later (T : OpTable) (s : State) (n : Nat) :
    dispatchUnder T (s.later n) = Later n (dispatchUnder T s) := by
  by_cases hr : s.fsm = .running
  · cases hf : s.frame with
    | nil => rw [dispatchUnder_no_frame T hr hf, dispatchUnder_no_frame T (s := s.later n) hr hf]; rfl
    | cons b r =>
      by_cases hmiss : b = s.params.flagId ∨ T b = none
      · rw [dispatchUnder_miss hr hf hmiss, dispatchUnder_miss (s := s.later n) hr hf hmiss]
        rfl
      · obtain ⟨hb, h, hT⟩ := bound_of_not_miss hmiss
        rw [dispatchUnder_bound hr hf hb hT, dispatchUnder_bound (s := s.later n) hr hf hb hT, runHandler_later]
        exact whileRunning_later (execFinish_later · n) _
  · exact (inCycle_outside (s := s.later n) hr _).trans (congrArg (Later n) (inCycle_outside hr _).symm)

theorem runFrameUnder_later (T : OpTable) (f : Frame) (s : State) (n : Nat) :
    runFrameUnder T f (s.later n) = Later n (runFrameUnder T f s) := by
  have hadvance : inCycle (s.later n) (.next (s.later n).advance) = Later n (inCycle s (.next s.advance)) :=
    inCycle_later (congrArg _ (s.advance_later n))
  unfold runFrameUnder
  rw [show (s.later n).params = s.params from rfl]
  cases classify s.params.flagId f with
  | empty | flag => exact hadvance
  | op => exact dispatchUnder_later T { s with frame := f } n

/-- Settles O49: the whole step commutes with `n` cycles more. -/
theorem cycleCounterUnobserved : Obligations.CycleCounterUnobserved := by
  intro s t n hr ht
  obtain ⟨f, hf⟩ := step_running_fetches hr ht
  calc step (s.later n)
      = mapNext (fun u => u.endCycle.deliver u.reply) (runFrame f ((s.beginCycle f).later n)) :=
        step_running (s := s.later n) hr hf
    _ = mapNext (fun u => u.endCycle.deliver u.reply) (Later n (runFrame f (s.beginCycle f))) :=
        congrArg _ (runFrameUnder_later _ f (s.beginCycle f) n)
    _ = Later n (mapNext (fun u => u.endCycle.deliver u.reply) (runFrame f (s.beginCycle f))) :=
        mapNext_later (fun u => by rw [State.endCycle_later]; rfl) _
    _ = .next (t.later n) := by rw [← step_running hr hf, ht]; rfl

/-! ### Stack and heap -/

/-- `s` over another stack, with another pointer and configuration. -/
def State.withStack (s : State) (st : Memory) (p : Nat) (c : Cfg) : State := { s with stack := st, sp := p, cfg := c }

/-- `s` over another heap, with another configuration. -/
def State.withHeap (s : State) (hp : Memory) (c : Cfg) : State := { s with heap := hp, cfg := c }

theorem exec_heap_withStack {i : Instr} {s t : State} (st : Memory) (p n : Nat)
    (hi : (∃ a, i = .heaprd a) ∨ ∃ a v, i = .heapwr a v) (h : exec i s = .next t) :
    exec i (s.withStack st p { s.cfg with stackSize := n }) = .next (t.withStack st p { s.cfg with stackSize := n }) := by
  obtain ⟨a, rfl⟩ | ⟨a, v, rfl⟩ := hi <;> obtain ⟨hr, h⟩ := inCycle_next.mp h <;> cases h
  all_goals
    refine inCycle_next.mpr ⟨hr, ?_⟩
    show Host.Outcome.next ((s.withStack st p { s.cfg with stackSize := n }).unless (s.heapTest a) _) = _
    cases s.heapTest a <;> rfl

theorem exec_stack_withHeap {i : Instr} {s t : State} (hp : Memory) (n : Nat)
    (hi : (∃ v, i = .push v) ∨ i = .pop ∨ (∃ v, i = .setsp v) ∨ i = .getsp) (h : exec i s = .next t) :
    exec i (s.withHeap hp { s.cfg with heapSize := n }) = .next (t.withHeap hp { s.cfg with heapSize := n }) := by
  obtain ⟨v, rfl⟩ | rfl | ⟨v, rfl⟩ | rfl := hi <;> obtain ⟨hr, h⟩ := inCycle_next.mp h <;>
    refine inCycle_next.mpr ⟨hr, ?_⟩
  case inl =>
    split at h <;> cases h
    · next hfull => exact congrArg _ (if_pos hfull)
    · next hroom => exact congrArg _ (if_neg hroom)
  case inr.inl =>
    split at h
    · next h0 => cases h; exact if_pos h0
    · next h0 =>
      split at h <;> cases h
      next hlt => exact (if_neg h0).trans (if_pos hlt)
  case inr.inr.inl =>
    cases h
    show Host.Outcome.next ((s.withHeap hp { s.cfg with heapSize := n }).unless (s.spTest v) _) = _
    cases s.spTest v <;> rfl
  case inr.inr.inr => cases h; rfl

/-- Settles O33: each operation takes the same branch over the other memory, and leaves what was put in place. -/
theorem stackAndHeapAreSeparate : Obligations.StackAndHeapAreSeparate :=
  ⟨fun _ _ _ st p n hi h => exec_heap_withStack st p n hi h, fun _ _ _ hp n hi h => exec_stack_withHeap hp n hi h⟩

end Sys2Proof.Machine

/-! PROOFS. 41_stack R92, 42_heap, 43_registers, 40_flag_table R83, 44_fetch_execute R123 to R128: one equation for each
outcome of a primitive in a cycle, and the laws of the heap and of the registers. -/

namespace Sys2Proof.Machine

/-! ### Operations behind a range test -/

theorem next_of_test_none {o : Out} {s t : State} {test : Option MsgId} (ho : o = .next (s.unless test t))
    (h : test = none) : o = .next t := by
  rw [ho, h]; rfl

theorem fault_of_test_some {o : Out} {s t : State} {test : Option MsgId} {m : MsgId} (ho : o = .next (s.unless test t))
    (h : test = some m) : o = .next (s.raise m) := by
  rw [ho, h]; rfl

theorem rangeTest_below {v : Int} {n : Nat} {below above : MsgId} (h : v < 0) : rangeTest v n below above = some below :=
  rangeTest_some.mpr (.inl ⟨h, rfl⟩)

theorem rangeTest_above {v : Int} {n : Nat} {below above : MsgId} (h : n ≤ v) : rangeTest v n below above = some above :=
  rangeTest_some.mpr (.inr ⟨h, rfl⟩)

/-- Settles O27. -/
theorem setspCommitsInRange : Obligations.SetspCommitsInRange := by
  intro s v hr
  have ho := inCycle_running hr (.next (s.unless (s.spTest v) { s with sp := v.toNat, ret := .unit }))
  exact ⟨fun h0 hlt => ⟨.unit, next_of_test_none ho (rangeTest_none.mpr ⟨h0, hlt⟩)⟩,
    fun h => fault_of_test_some ho (rangeTest_below h), fun h => fault_of_test_some ho (rangeTest_above h)⟩

theorem exec_heaprd {s : State} {a : Int} (hr : s.fsm = .running) (h0 : 0 ≤ a) (hlt : a < s.cfg.heapSize) :
    exec (.heaprd a) s = .next { s with ret := .byte (s.heapAt a.toNat) } :=
  next_of_test_none (inCycle_running hr _) (rangeTest_none.mpr ⟨h0, hlt⟩)

theorem exec_heapwr {s : State} {a : Int} (v : Byte) (hr : s.fsm = .running) (h0 : 0 ≤ a) (hlt : a < s.cfg.heapSize) :
    exec (.heapwr a v) s = .next { s with heap := s.heap.write a.toNat v, ret := .unit } :=
  next_of_test_none (inCycle_running hr _) (rangeTest_none.mpr ⟨h0, hlt⟩)

/-- Settles O30. -/
theorem heapReadInRange : Obligations.HeapReadInRange :=
  fun _ _ hr => ⟨exec_heaprd hr, fun h => fault_of_test_some (inCycle_running hr _) (rangeTest_below h),
    fun h => fault_of_test_some (inCycle_running hr _) (rangeTest_above h)⟩

/-- Settles O31: the write is read back at its own address, and everywhere else the cell is the old one. -/
theorem heapWriteInRange : Obligations.HeapWriteInRange := by
  intro s a v hr
  refine ⟨fun h0 hlt => ⟨_, exec_heapwr v hr h0 hlt, rfl, ?_, fun b hb => ?_⟩,
    fun h => fault_of_test_some (inCycle_running hr _) (rangeTest_below h),
    fun h => fault_of_test_some (inCycle_running hr _) (rangeTest_above h)⟩
  · exact Memory.read_write_same s.heap .heap s.draw a.toNat v
  · exact Memory.read_write_other s.heap .heap s.draw v hb

/-- Settles O32: two admitted addresses are the same exactly when their cells are. -/
theorem heapReadAfterWrite : Obligations.HeapReadAfterWrite := by
  intro s t a b v hr ha0 ha hb0 hb ht
  cases (exec_heapwr v hr ha0 ha).symm.trans ht
  refine ⟨_, _, exec_heaprd hr hb0 hb, exec_heaprd hr hb0 hb, ?_⟩
  by_cases hba : b = a
  · subst hba
    rw [if_pos rfl]
    exact congrArg Value.byte (Memory.read_write_same s.heap .heap s.draw b.toNat v)
  · rw [if_neg hba]
    have hcell : b.toNat ≠ a.toNat := by omega
    exact congrArg Value.byte (Memory.read_write_other s.heap .heap s.draw v hcell)

/-! ### The registers -/

theorem exec_setreg {s : State} {i : RegIndex} {r : Fin 4} {v : Nat} (hr : s.fsm = .running) (hi : i.toNat = r.val)
    (hv : v < 2 ^ s.cfg.archBits) : exec (.setreg i v) s = .next { s.setReg r v with ret := .unit } := by
  refine (inCycle_running hr _).trans (congrArg _ ?_)
  rw [register?_some.mpr hi]
  exact if_neg (Nat.not_le.mpr hv)

theorem exec_setreg_overflow {s : State} {i : RegIndex} {r : Fin 4} {v : Nat} (hr : s.fsm = .running)
    (hi : i.toNat = r.val) (hv : 2 ^ s.cfg.archBits ≤ v) : exec (.setreg i v) s = .next (s.raise .regOverflow) := by
  refine (inCycle_running hr _).trans (congrArg _ ?_)
  rw [register?_some.mpr hi]
  exact if_pos hv

theorem exec_setreg_index {s : State} {i : RegIndex} (v : Nat) (hr : s.fsm = .running) (hi : 4 ≤ i.toNat) :
    exec (.setreg i v) s = .next (s.raise .regIndexWrite) := by
  refine (inCycle_running hr _).trans (congrArg _ ?_)
  rw [register?_none.mpr hi]

theorem exec_getreg {s : State} {i : RegIndex} {r : Fin 4} (hr : s.fsm = .running) (hi : i.toNat = r.val) :
    exec (.getreg i) s = .next { s with ret := .num (s.getReg r) } := by
  refine (inCycle_running hr _).trans (congrArg _ ?_)
  rw [register?_some.mpr hi]

theorem exec_getreg_index {s : State} {i : RegIndex} (hr : s.fsm = .running) (hi : 4 ≤ i.toNat) :
    exec (.getreg i) s = .next (s.raise .regIndexRead) := by
  refine (inCycle_running hr _).trans (congrArg _ ?_)
  rw [register?_none.mpr hi]

/-- Settles O34: the index is tested first. -/
theorem setregStoresExactly : Obligations.SetregStoresExactly :=
  fun _ i v hr => ⟨fun hi hv => ⟨.unit, exec_setreg (r := ⟨i.toNat, hi⟩) hr rfl hv⟩,
    fun hi hv => exec_setreg_overflow (r := ⟨i.toNat, hi⟩) hr rfl hv, exec_setreg_index v hr⟩

/-- Settles O35. -/
theorem getregReturnsRegister : Obligations.GetregReturnsRegister :=
  fun _ i hr => ⟨fun hi => exec_getreg (r := ⟨i.toNat, hi⟩) hr rfl, exec_getreg_index hr⟩

theorem State.unless_regs {s t : State} (test : Option MsgId) (h : t.regs = s.regs) :
    (s.unless test t).regs = s.regs := by
  cases test with
  | none => exact h
  | some m => rfl

/-- SETREG alone writes a register: the one its index names, with a value it has tested. -/
theorem perform_regs {p : Prim} {s t : State} (h : perform p s = .next t) :
    t.regs = s.regs ∨ ∃ (k : RegIndex) (v : Nat) (r : Fin 4),
      p = .setreg k v ∧ k.toNat = r.val ∧ v < 2 ^ s.cfg.archBits ∧ t.regs = s.regs.set r v := by
  cases p with
  | setreg k v =>
    obtain ⟨-, h⟩ := inCycle_next.mp h
    split at h
    · cases h; exact .inl rfl
    · next r hk =>
      split at h <;> cases h
      · exact .inl rfl
      · next hv => exact .inr ⟨k, v, r, rfl, register?_some.mp hk, Nat.not_le.mp hv, rfl⟩
  | setsp _ | heaprd _ | heapwr _ _ =>
    obtain ⟨-, h⟩ := inCycle_next.mp h
    cases h
    exact .inl (State.unless_regs _ rfl)
  | getsp | lookup _ | getip | sethalt _ =>
    obtain ⟨-, h⟩ := inCycle_next.mp h
    cases h
    exact .inl rfl
  | push _ | getreg _ | operand _ | setip _ | jmpflag _ =>
    obtain ⟨-, h⟩ := inCycle_next.mp h
    split at h <;> cases h <;> exact .inl rfl
  | pop =>
    obtain ⟨-, h⟩ := inCycle_next.mp h
    split at h
    · cases h; exact .inl rfl
    · split at h <;> cases h
      exact .inl rfl

@[simp] theorem State.advance_regs (s : State) : s.advance.regs = s.regs := by
  obtain ⟨-, e⟩ | ⟨-, e⟩ := s.advance_cases <;> rw [e]
  rfl

@[simp] theorem State.finish_regs (s : State) : s.finish.regs = s.regs := by
  obtain ⟨-, e⟩ | ⟨-, -, e⟩ | ⟨-, -, e⟩ := s.finish_cases <;> rw [e]
  exact s.advance_regs

theorem State.rebuild_regs (s : State) : s.rebuild.regs = s.regs :=
  congrArg HostConstants.regs s.rebuild_hostConstants

/-- An operation that performs no whole handler is a primitive, resets the machine, or keeps the registers. -/
theorem exec_regs {i : Instr} {s t : State} (hi : performsHandler i = false) (h : exec i s = .next t) :
    t.regs = s.regs ∨ (∃ p, i = instrOf p ∧ perform p s = .next t) ∨
      ((∃ a m k, i = .init a m k) ∧ t.regs = State.reset.regs) := by
  cases exec_cases h with
  | primitive p hip hp => exact .inr (.inl ⟨p, hip, hp⟩)
  | initialized a m k => exact .inr (.inr ⟨⟨a, m, k, rfl⟩, rfl⟩)
  | empty | flag | advance => exact .inl s.advance_regs
  | finish => exact .inl s.finish_regs
  | rebuild | enter | attach | run | runp => exact .inl (State.rebuild_regs _)
  | result | refused | snapshot | runEmpty | runpEmpty => exact .inl rfl
  | op | dispatch | cycle => cases hi

theorem State.getReg_congr {s t : State} (h : t.regs = s.regs) (r : Fin 4) : t.getReg r = s.getReg r := by
  rw [State.getReg, h, State.getReg]

/-- Settles O36: what SETREG writes is read back, and no other operation but INITIALIZE writes a register. -/
theorem registerLaws : Obligations.RegisterLaws := by
  refine ⟨fun s i v hr hi hv => ?_, fun i s t r hi h => ?_⟩
  · have hread (r : Fin 4) : State.getReg { s.setReg ⟨i.toNat, hi⟩ v with ret := .unit } r =
        if ⟨i.toNat, hi⟩ = r then v else s.getReg r := s.getReg_setReg _ r v
    refine ⟨_, exec_setreg (r := ⟨i.toNat, hi⟩) hr rfl hv, ⟨_, exec_getreg (r := ⟨i.toNat, hi⟩) hr rfl, ?_⟩, ?_⟩
    · exact congrArg Value.num ((hread _).trans (if_pos rfl))
    · intro j hj hji
      have hne : (⟨i.toNat, hi⟩ : Fin 4) ≠ ⟨j.toNat, hj⟩ := fun e =>
        hji (BitVec.eq_of_toNat_eq (congrArg Fin.val e).symm)
      exact ⟨_, _, exec_getreg (r := ⟨j.toNat, hj⟩) hr rfl, exec_getreg (r := ⟨j.toNat, hj⟩) hr rfl,
        congrArg Value.num ((hread _).trans (if_neg hne))⟩
  · obtain hkept | ⟨p, rfl, hp⟩ | ⟨hinit, hreset⟩ := exec_regs hi h
    · exact .inl (State.getReg_congr hkept r)
    · obtain hkept | ⟨k, v, q, rfl, hk, hv, hset⟩ := perform_regs hp
      · exact .inl (State.getReg_congr hkept r)
      · have hread : t.getReg r = if q = r then v else s.getReg r :=
          (State.getReg_congr (s := s.setReg q v) hset r).trans (s.getReg_setReg q r v)
        by_cases hqr : q = r
        · rw [if_pos hqr] at hread
          exact .inr (.inl ⟨k, v, rfl, hqr ▸ hk, hread, hv⟩)
        · rw [if_neg hqr] at hread
          exact .inl hread
    · exact .inr (.inr ⟨hinit, (State.getReg_congr hreset r).trans (getReg_reset r)⟩)

/-! ### Control -/

/-- Settles O37. -/
theorem lookupReturnsEntry : Obligations.LookupReturnsEntry := fun _ _ hr => inCycle_running hr _

/-- Settles O38: the target is tested against the length of the program and nothing else. -/
theorem setipChecksTarget : Obligations.SetipChecksTarget := fun _ _ hr =>
  ⟨fun h => ⟨.unit, (inCycle_running hr _).trans (congrArg _ (if_neg (Nat.not_le.mpr h)))⟩,
    fun h => (inCycle_running hr _).trans (congrArg _ (if_pos h))⟩

/-- Settles O39. -/
theorem getipReturnsOwnIndex : Obligations.GetipReturnsOwnIndex := fun _ hr => inCycle_running hr _

/-- Settles O40: the jump goes where the table says, without a test. -/
theorem jmpflagFollowsTable : Obligations.JmpflagFollowsTable := by
  refine fun s l hr => ⟨fun k hk => ⟨.unit, (inCycle_running hr _).trans (congrArg _ ?_)⟩,
    fun hk => (inCycle_running hr _).trans (congrArg _ ?_)⟩
  · rw [hk]; rfl
  · rw [hk]; rfl

/-- Settles O41. -/
theorem sethaltStoresSignal : Obligations.SethaltStoresSignal := fun _ _ hr => ⟨.unit, inCycle_running hr _⟩

theorem exec_operand {s : State} {j : Nat} {b : Byte} (hr : s.fsm = .running) (hj : s.frame[j]? = some b) :
    exec (.operand j) s = .next { s with ret := .byte b } := by
  refine (inCycle_running hr _).trans (congrArg _ ?_)
  rw [State.operand?, hj]

theorem exec_operand_short {s : State} {j : Nat} (hr : s.fsm = .running) (hj : s.frame.length ≤ j) :
    exec (.operand j) s = .next (s.raise .shortFrame) := by
  refine (inCycle_running hr _).trans (congrArg _ ?_)
  rw [State.operand?, List.getElem?_eq_none hj]

/-- Settles O42. -/
theorem operandReadsFetchedFrame : Obligations.OperandReadsFetchedFrame :=
  fun _ _ hr => ⟨fun _ hj => exec_operand hr hj, exec_operand_short hr⟩

end Sys2Proof.Machine

/-! PROOFS. 44_fetch_execute R110 to R121: the checked increment, FINISH, the cycle, the dispatch, and the step. -/

namespace Sys2Proof.Machine

/-! ### ADVANCE and FINISH -/

theorem State.advance_of_lt {s : State} (h : s.ip + 1 < s.program.length) : s.advance = { s with ip := s.ip + 1 } :=
  if_neg (Nat.not_le.mpr h)

theorem State.advance_of_le {s : State} (h : s.program.length ≤ s.ip + 1) : s.advance = s.raise .ipAdvance := if_pos h

/-- Settles O16. -/
theorem advanceIsChecked : Obligations.AdvanceIsChecked := fun _ hr =>
  ⟨fun h => (inCycle_running hr _).trans (congrArg _ (State.advance_of_lt h)),
    fun h => (inCycle_running hr _).trans (congrArg _ (State.advance_of_le h))⟩

theorem State.finish_of_halt {s : State} (h : s.halt ≠ 0) :
    s.finish = { s with cycles := s.cycles + 1, fsm := .halted } := if_pos h

theorem State.finish_of_jump {s : State} (hh : s.halt = 0) (hw : s.ipWritten = true) : s.finish = s :=
  (if_neg (not_not_intro hh)).trans (if_pos hw)

theorem State.finish_of_no_jump {s : State} (hh : s.halt = 0) (hw : s.ipWritten = false) : s.finish = s.advance :=
  (if_neg (not_not_intro hh)).trans (if_neg (by rw [hw]; decide))

theorem execFinish_running {s : State} (hr : s.fsm = .running) : execFinish s = .next s.finish := inCycle_running hr _

/-- Settles O15: the halt test first, then the latch, then the checked increment. -/
theorem finishHaltsOrAdvances : Obligations.FinishHaltsOrAdvances := fun _ hr =>
  ⟨fun hh => (execFinish_running hr).trans (congrArg _ (State.finish_of_halt hh)),
    fun hh hw => (execFinish_running hr).trans (congrArg _ (State.finish_of_jump hh hw)),
    fun hh hw hlt =>
      (execFinish_running hr).trans (congrArg _ ((State.finish_of_no_jump hh hw).trans (State.advance_of_lt hlt))),
    fun hh hw hle =>
      (execFinish_running hr).trans (congrArg _ ((State.finish_of_no_jump hh hw).trans (State.advance_of_le hle)))⟩

/-! ### The end of a cycle -/

theorem State.endCycle_of_running {s : State} (h : s.fsm = .running) : s.endCycle = { s with cycles := s.cycles + 1 } := by
  simp only [State.endCycle, h]

theorem State.endCycle_of_ended {s : State} (h : s.fsm ≠ .running) : s.endCycle = s := by
  obtain ⟨hr, -⟩ | ⟨-, e⟩ := s.endCycle_cases
  · exact absurd hr h
  · exact e

/-- What a step makes of the state its frame leaves: the cycle is counted if the run goes on, RESULT is returned if not. -/
theorem step_of_runFrame {s t : State} {f : Frame} (hr : s.fsm = .running) (hf : s.fetch? = some f)
    (h : runFrame f (s.beginCycle f) = .next t) :
    (t.fsm = .running → step s = .next { t with cycles := t.cycles + 1 }) ∧
    (t.fsm = .halted → step s = .next { t with reply := .ok t.halt }) ∧
    (t.fsm = .faulted → step s = .next { t with reply := .fault t.fault }) := by
  have hstep : step s = .next (t.endCycle.deliver t.endCycle.reply) := by
    rw [step_running hr hf, h]
    obtain ⟨-, e⟩ | ⟨-, e⟩ := t.endCycle_cases <;> rw [mapNext, e]
  rw [hstep]
  refine ⟨fun ht => ?_, fun ht => ?_, fun ht => ?_⟩
  · rw [State.endCycle_of_running ht]
    simp only [State.deliver, State.result?, ht, Option.getD_none]
  · rw [State.endCycle_of_ended (by rw [ht]; decide)]
    simp only [State.deliver, State.result?_of_halted ht, Option.getD_some]
  · rw [State.endCycle_of_ended (by rw [ht]; decide)]
    simp only [State.deliver, State.result?_of_faulted ht, Option.getD_some]

/-- Settles O55. -/
theorem stepRunsDecodedInstruction : Obligations.StepRunsDecodedInstruction := by
  intro s t f i hr hf hdec h
  exact step_of_runFrame hr hf ((exec_decoded_frame (s := s.beginCycle f) hdec).symm.trans h)

/-! ### Skipped frames -/

/-- An empty frame, or a flag frame whatever follows its first byte. -/
def Skipped (flagId : Byte) (f : Frame) : Prop := f = [] ∨ f.head? = some flagId

theorem runFrame_skipped {f : Frame} {s : State} (hr : s.fsm = .running) (hf : Skipped s.params.flagId f) :
    runFrame f s = .next s.advance := by
  have hclass : classify s.params.flagId f = .empty ∨ classify s.params.flagId f = .flag := by
    obtain rfl | hhead := hf
    · exact .inl (classify_nil _)
    · obtain ⟨rest, rfl⟩ := List.head?_eq_some_iff.mp hhead
      exact .inr (classify_cons_flagId _ rest)
  obtain hc | hc := hclass <;> simp only [runFrame, runFrameUnder, hc] <;> exact inCycle_running hr _

section
variable {s : State} {f : Frame} (hr : s.fsm = .running) (hskip : Skipped s.params.flagId f)
include hr hskip

theorem runFrame_skipped_advances (hlt : s.ip + 1 < s.program.length) :
    runFrame f (s.beginCycle f) = .next { s with frame := f, ipWritten := false, ip := s.ip + 1 } :=
  (runFrame_skipped (s := s.beginCycle f) hr hskip).trans (congrArg _ (State.advance_of_lt hlt))

theorem runFrame_skipped_faults (hle : s.program.length ≤ s.ip + 1) :
    runFrame f (s.beginCycle f) =
      .next (raised { s with frame := f, ipWritten := false } .invalidInstructionPointer .ipAdvance) :=
  (runFrame_skipped (s := s.beginCycle f) hr hskip).trans (congrArg _ (State.advance_of_le hle))

theorem step_skipped_advances (hf : s.fetch? = some f) (hlt : s.ip + 1 < s.program.length) :
    step s = .next { s with frame := f, ipWritten := false, ip := s.ip + 1, cycles := s.cycles + 1 } := by
  obtain ⟨hgoesOn, -, -⟩ := step_of_runFrame hr hf (runFrame_skipped_advances hr hskip hlt)
  exact hgoesOn hr

theorem step_skipped_faults (hf : s.fetch? = some f) (hle : s.program.length ≤ s.ip + 1) :
    ∃ r, step s = .next
      { raised { s with frame := f, ipWritten := false } .invalidInstructionPointer .ipAdvance with reply := r } := by
  obtain ⟨-, -, hfaults⟩ := step_of_runFrame hr hf (runFrame_skipped_faults hr hskip hle)
  exact ⟨_, hfaults rfl⟩

end

/-- Settles O18. -/
theorem emptyFrameAdvances : Obligations.EmptyFrameAdvances :=
  ⟨fun _ hr h => (inCycle_running hr _).trans (congrArg _ (State.advance_of_lt h)),
    fun _ hr h => (inCycle_running hr _).trans (congrArg _ (State.advance_of_le h)),
    fun _ hr => step_skipped_advances hr (.inl rfl), fun _ hr => step_skipped_faults hr (.inl rfl)⟩

/-- Settles O19. -/
theorem flagFrameSkipped : Obligations.FlagFrameSkipped := fun _ _ _ hr =>
  ⟨fun h => (inCycle_running hr _).trans (congrArg _ (State.advance_of_lt h)),
    fun h => (inCycle_running hr _).trans (congrArg _ (State.advance_of_le h)),
    step_skipped_advances hr (.inr rfl), step_skipped_faults hr (.inr rfl)⟩

/-- Settles O14: by the class of the fetched frame. -/
theorem cycleFetchesClassifiesExecutes : Obligations.CycleFetchesClassifiesExecutes := by
  intro s f hr hf
  have hcycle {t : State} (h : runFrame f (s.beginCycle f) = .next t) : exec .cycle s = .next t.endCycle :=
    (execCycle_running hr hf).trans (congrArg (mapNext State.endCycle) h)
  refine ⟨fun hskip hlt => ?_, fun hskip hle => ?_, fun b r hop hb t ht => ?_⟩
  · exact (hcycle (runFrame_skipped_advances hr hskip hlt)).trans (congrArg _ (State.endCycle_of_running hr))
  · exact hcycle (runFrame_skipped_faults hr hskip hle)
  · have hdec : decodeFrame s.params.flagId f = .ok (.op b r) :=
      hop ▸ Laws.Codec.op b r s.params.flagId _ rfl (decide_eq_true hb)
    refine (hcycle ((exec_decoded_frame (s := s.beginCycle f) hdec).symm.trans ht)).trans (congrArg _ ?_)
    by_cases htr : t.fsm = .running
    · rw [if_pos htr, State.endCycle_of_running htr]
    · rw [if_neg htr, State.endCycle_of_ended htr]

/-! ### The dispatch -/

theorem opTable_of_entry {p : Params} {b : Byte} {d : HandlerDesc} (h : opcodeEntry? p b = some d) :
    opTable p b = some fun f => handlerOf f d := by
  rw [opTable, h]; rfl

theorem opTable_of_no_entry {p : Params} {b : Byte} (h : opcodeEntry? p b = none) : opTable p b = none := by
  rw [opTable, h]; rfl

theorem opcodeEntry?_of_lookup_none {p : Params} {b : Byte} (h : p.optab.lookup b = none) : opcodeEntry? p b = none := by
  rw [opcodeEntry?, h, ite_self]

theorem opcodeEntry?_of_ne {p : Params} {b : Byte} (hb : b ≠ p.flagId) : opcodeEntry? p b = p.optab.lookup b := if_neg hb

theorem ne_flagId_of_entry {p : Params} {b : Byte} {d : HandlerDesc} (h : opcodeEntry? p b = some d) : b ≠ p.flagId := by
  rintro rfl
  rw [opcodeEntry?, if_pos rfl] at h
  cases h

/-- OP is DISPATCH of its own frame. -/
theorem exec_op_of_held {s : State} {b : Byte} {r : List Byte} (hf : s.frame = b :: r) :
    exec (.op b r) s = exec .dispatch s := by
  show execDispatch { s with frame := b :: r } = execDispatch s
  rw [← hf]

/-- Settles O20, by the three cases of a dispatch; the table of the parameters binds a byte as its row says. -/
theorem opDispatchesHandler : Obligations.OpDispatchesHandler := by
  intro s b r hr hf
  refine ⟨exec_op_of_held hf, rfl, fun d hb hd => ?_, fun hd => opTable_of_no_entry (opcodeEntry?_of_lookup_none hd),
    fun T => ⟨dispatchUnder_miss hr hf, fun h u hb hT hu => ?_⟩⟩
  · exact ⟨_, opTable_of_entry ((opcodeEntry?_of_ne hb).trans hd), fun _ => rfl⟩
  · rw [dispatchUnder_bound hr hf hb hT, hu]
    exact ⟨whileRunning_running, whileRunning_ended⟩

/-- Settles O21: either way the dispatch is a miss. -/
theorem unboundOpcodeFaults : Obligations.UnboundOpcodeFaults := by
  intro s b r hr h
  refine dispatchUnder_miss (s := { s with frame := b :: r }) hr rfl (h.symm.imp_right fun hnil => ?_)
  exact opTable_of_no_entry (opcodeEntry?_of_lookup_none (by rw [hnil]; rfl))

/-- A dispatch whose handler ends in a running state goes on with FINISH. -/
theorem execDispatch_of_entry {s u : State} {b : Byte} {r : List Byte} {d : HandlerDesc} (hr : s.fsm = .running)
    (hf : s.frame = b :: r) (hd : opcodeEntry? s.params b = some d) (hu : runHandler (handlerOf (b :: r) d) s = .next u)
    (hur : u.fsm = .running) : execDispatch s = .next u.finish := by
  refine (dispatchUnder_bound hr hf (ne_flagId_of_entry hd) (opTable_of_entry hd)).trans ?_
  rw [hu, whileRunning_running hur, execFinish_running hur]

theorem runHandler_call {p : Prim} {k : Value → Handler} {s t : State} (h : exec (instrOf p) s = .next t)
    (hr : t.fsm = .running) : runHandler (.call p k) s = runHandler (k t.ret) t := by
  rw [runHandler, perform_eq_exec, h, whileRunning_running hr]

theorem runHandler_call_ended {p : Prim} {k : Value → Handler} {s t : State} (h : exec (instrOf p) s = .next t)
    (hr : t.fsm ≠ .running) : runHandler (.call p k) s = .next t := by
  rw [runHandler, perform_eq_exec, h, whileRunning_ended hr]

/-- Settles O23. -/
theorem handlerPerformsInOrder : Obligations.HandlerPerformsInOrder :=
  ⟨fun _ => rfl, fun _ _ _ _ h => ⟨runHandler_call h, runHandler_call_ended h⟩, fun p => by cases p <;> rfl⟩

/-- A byte as the value of the halt port. -/
theorem ofInt_resultInt_byte (x : Byte) : BitVec.ofInt 32 (resultInt (.byte x)) = x.setWidth 32 := by
  rw [resultInt, BitVec.ofInt_natCast, BitVec.ofNat_toNat]

theorem setWidth_ne_zero {x : Byte} (h : x ≠ 0) : x.setWidth 32 ≠ 0 := by
  intro h0
  bv_omega

/-- The handler `SETHALT(OPERAND(1))` on a frame with a byte 1. -/
theorem runHandler_sethalt_operand {s : State} {b x : Byte} {r : List Byte} (hr : s.fsm = .running)
    (hf : s.frame = b :: x :: r) :
    runHandler (handlerOf (b :: x :: r)
      (.script (.seq (.call .operand (.lit 1) (.lit 0)) (.call .sethalt (.result 0) (.lit 0))))) s =
      .next { s with halt := x.setWidth 32, ret := .unit } := by
  have hoperand : exec (.operand 1) s = .next { s with ret := .byte x } := exec_operand hr (by rw [hf]; rfl)
  rw [← ofInt_resultInt_byte]
  have hsethalt : exec (.sethalt (BitVec.ofInt 32 (resultInt (.byte x)))) { s with ret := .byte x } =
      .next { s with halt := BitVec.ofInt 32 (resultInt (.byte x)), ret := .unit } := inCycle_running hr _
  exact (runHandler_call (p := .operand 1) hoperand hr).trans (runHandler_call (p := .sethalt _) hsethalt hr)

/-- A handler that performs no primitive only advances. -/
theorem execDispatch_empty_handler {s : State} {b : Byte} {r : List Byte} (hr : s.fsm = .running) (hf : s.frame = b :: r)
    (hh : s.halt = 0) (hw : s.ipWritten = false) (hd : opcodeEntry? s.params b = some (.script .done))
    (hlt : s.ip + 1 < s.program.length) : execDispatch s = .next { s with ip := s.ip + 1 } :=
  (execDispatch_of_entry hr hf hd rfl hr).trans
    (congrArg _ ((State.finish_of_no_jump hh hw).trans (State.advance_of_lt hlt)))

/-- Settles O22. -/
theorem opCompletesUnderBoundHandlers : Obligations.OpCompletesUnderBoundHandlers := by
  refine ⟨fun s b r hr hh hw hd hlt => ?_, fun s b x r hr hx hd => ?_⟩
  · exact ⟨execDispatch_empty_handler (s := { s with frame := b :: r }) hr rfl hh hw hd hlt,
      fun hf => execDispatch_empty_handler hr hf hh hw hd hlt⟩
  · refine ⟨.unit, (execDispatch_of_entry (s := { s with frame := b :: x :: r }) hr rfl hd
      (runHandler_sethalt_operand hr rfl) hr).trans (congrArg _ ?_)⟩
    exact State.finish_of_halt (setWidth_ne_zero hx)

/-! ### The step outside a run -/

/-- Settles O56. -/
theorem stepRunsHostCommand : Obligations.StepRunsHostCommand := fun _ _ hs =>
  ⟨step_idle hs, fun _ _ _ => step_command hs, fun _ => step_command hs, step_command hs, fun _ => step_command hs,
    step_command hs⟩

end Sys2Proof.Machine

/-! PROOFS. 70_reset R170 to R177: INITIALIZE, SNAPSHOT and the refusals; and where the model stops (log 9, 12). -/

namespace Sys2Proof.Machine

/-! ### Reset and INITIALIZE -/

@[simp] theorem Memory.read_nil (space : MemSpace) (draw a : Nat) :
    Memory.read [] space draw a = Config.memInit space draw a := rfl

/-- Settles O1. -/
theorem resetLeavesInitializedState : Obligations.ResetLeavesInitializedState :=
  ⟨getReg_reset, rfl, rfl, rfl, rfl, rfl, rfl, rfl, rfl, rfl, FlagTable.lookup_clear, Memory.read_nil .stack 0,
    Memory.read_nil .heap 0, rfl, params_legal⟩

/-- The configuration INITIALIZE latches. -/
def cfgOf (a h k : Int) : Cfg := { archBits := a.toNat, heapSize := h.toNat, stackSize := k.toNat }

theorem exec_init {s : State} {a h k : Int} (hs : s.fsm ≠ .running) (ha : a ≥ 1) (hh : h ≥ 0) (hk : k ≥ 1) :
    exec (.init a h k) s = .next (s.initialized (cfgOf a h k)) :=
  congrArg _ (if_pos ⟨hs, legalConfig_iff.mpr ⟨ha, hh, hk⟩⟩)

/-- Settles O2. -/
theorem initializeResetsEverything : Obligations.InitializeResetsEverything := by
  intro s a h k hs ha hh hk
  exact ⟨_, exec_init hs ha hh hk, Int.toNat_of_nonneg (by omega), Int.toNat_of_nonneg hh,
    Int.toNat_of_nonneg (by omega), getReg_reset, rfl, rfl, rfl, rfl, rfl, rfl, rfl, FlagTable.lookup_clear,
    Memory.read_nil .stack (s.draw + 1), Memory.read_nil .heap (s.draw + 1), rfl, rfl, rfl⟩

/-- Settles O3. -/
theorem initializeRefusedChangesNothing : Obligations.InitializeRefusedChangesNothing := by
  refine fun s a h k hs => congrArg _ (if_neg fun ⟨hr, hc⟩ => ?_)
  obtain ⟨ha, hh, hk⟩ := legalConfig_iff.mp hc
  obtain hs | hs | hs | hs := hs
  · exact hr hs
  all_goals omega

/-- Settles O4: the state after INITIALIZE is built from the parameters, the draw and the queue alone. -/
theorem initializeForgetsEarlierRun : Obligations.InitializeForgetsEarlierRun := by
  intro s s' a h k hs hs' ha hh hk hparams hdraw hinbox
  refine ⟨_, exec_init hs ha hh hk, (exec_init hs' ha hh hk).trans (congrArg _ ?_)⟩
  rw [State.initialized, State.initialized, hparams, hdraw, hinbox]

/-! ### SNAPSHOT and the refusals -/

/-- Settles O9. -/
theorem snapshotShowsSurface : Obligations.SnapshotShowsSurface :=
  fun s hs => ⟨s.observe, congrArg _ (if_neg hs), rfl, rfl, rfl, rfl, rfl, rfl, rfl, rfl⟩

/-- Settles O10. -/
theorem commandsRefusedOutsideTheirStates : Obligations.CommandsRefusedOutsideTheirStates := by
  refine ⟨fun s hs => congrArg _ (if_neg hs), fun s p hsp => ?_, fun s hs => congrArg _ (if_pos hs)⟩
  have hnot : ¬ (s.fsm = .ready ∧ p.fits = true) := fun ⟨hs, hp⟩ =>
    hsp.elim (absurd hs) (Nat.not_le.mpr (fits_iff.mp hp))
  exact ⟨congrArg _ (if_neg hnot), congrArg _ (if_neg hnot)⟩

/-! ### Where the model stops -/

/-- The operations the spec performs within a cycle only (60_exceptions R149). -/
def InCycleOnly (i : Instr) : Prop :=
  isPrimitive i = true ∨ performsHandler i = true ∨ i = .empty ∨ (∃ l x, i = .flag l x) ∨ i = .finish ∨ i = .advance

theorem exists_instrOf {i : Instr} (hi : isPrimitive i = true) : ∃ p, i = instrOf p := by
  cases i with
  | push v => exact ⟨.push v, rfl⟩
  | pop => exact ⟨.pop, rfl⟩
  | setsp v => exact ⟨.setsp v, rfl⟩
  | getsp => exact ⟨.getsp, rfl⟩
  | heaprd a => exact ⟨.heaprd a, rfl⟩
  | heapwr a v => exact ⟨.heapwr a v, rfl⟩
  | setreg k v => exact ⟨.setreg k v, rfl⟩
  | getreg k => exact ⟨.getreg k, rfl⟩
  | lookup l => exact ⟨.lookup l, rfl⟩
  | setip k => exact ⟨.setip k, rfl⟩
  | getip => exact ⟨.getip, rfl⟩
  | jmpflag l => exact ⟨.jmpflag l, rfl⟩
  | sethalt v => exact ⟨.sethalt v, rfl⟩
  | operand j => exact ⟨.operand j, rfl⟩
  | _ => cases hi

theorem perform_outside (p : Prim) {s : State} (hr : s.fsm ≠ .running) : perform p s = .refused .outsideCycle := by
  cases p <;> exact inCycle_outside hr _

theorem exec_outside_cycle {i : Instr} {s : State} (hi : InCycleOnly i) (hr : s.fsm ≠ .running) :
    exec i s = .refused .outsideCycle := by
  obtain hp | hh | rfl | ⟨l, x, rfl⟩ | rfl | rfl := hi
  · obtain ⟨p, rfl⟩ := exists_instrOf hp
    rw [← perform_eq_exec]
    exact perform_outside p hr
  · cases i with
    | op b r => exact inCycle_outside (s := { s with frame := b :: r }) hr _
    | dispatch | cycle => exact inCycle_outside hr _
    | _ => cases hh
  all_goals exact inCycle_outside hr _

theorem exec_rebuild_outside {s : State} (h₁ : s.fsm ≠ .ready) (h₂ : s.fsm ≠ .running) :
    exec .rebuild s = .refused .outsideCommand := by
  cases h : s.fsm <;> simp_all [exec, execRebuild]

theorem exec_enter_outside {s : State} (hs : s.fsm ≠ .ready) : exec .enter s = .refused .outsideCommand := by
  cases h : s.fsm <;> simp_all [exec, execEnter]

theorem exec_result_outside {s : State} (h₁ : s.fsm ≠ .halted) (h₂ : s.fsm ≠ .faulted) :
    exec .result s = .refused .noResult := by
  obtain ⟨h, -⟩ | ⟨h, -⟩ | ⟨-, -, h⟩ := s.result?_cases
  · exact absurd h h₁
  · exact absurd h h₂
  · simp only [exec, execResult, h]

theorem fetch?_none {s : State} (h : s.program.length ≤ s.ip) : s.fetch? = none := List.getElem?_eq_none h

theorem execCycle_no_frame {s : State} (hr : s.fsm = .running) (h : s.program.length ≤ s.ip) :
    execCycle s = .fault .noFrameAtIp := by
  simp only [execCycle, cycleUnder, inCycle_running hr, fetch?_none h]

theorem step_no_frame {s : State} (hr : s.fsm = .running) (h : s.program.length ≤ s.ip) :
    step s = .fault .noFrameAtIp := by
  simp only [step, hr, fetch?_none h]

theorem exec_pop_absent {s : State} (hr : s.fsm = .running) (h0 : s.sp ≠ 0) (h : s.cfg.stackSize ≤ s.sp) :
    exec .pop s = .fault .stackCellAbsent :=
  (inCycle_running hr _).trans ((if_neg h0).trans (if_neg (Nat.not_lt.mpr h)))

/-- In a run that meets the invariant only DISPATCH can be without an answer: it has no frame before the first cycle. -/
theorem State.Inv.inCycle_answers {s : State} (h : s.Inv) (hr : s.fsm = .running) {i : Instr} (hi : InCycleOnly i) :
    (∃ t, exec i s = .next t) ∨ (i = .dispatch ∧ s.frame = []) := by
  have hsp : s.sp < s.cfg.stackSize := (h.running hr).sp_lt
  obtain hp | hh | rfl | ⟨l, x, rfl⟩ | rfl | rfl := hi
  · obtain ⟨p, rfl⟩ := exists_instrOf hp
    rw [← perform_eq_exec]
    exact .inl (perform_answers p hr hsp)
  · cases i with
    | op b r => exact .inl (dispatchUnder_answers _ (s := { s with frame := b :: r }) hr hsp (List.cons_ne_nil b r))
    | dispatch =>
      by_cases hf : s.frame = []
      · exact .inr ⟨rfl, hf⟩
      · exact .inl (dispatchUnder_answers _ hr hsp hf)
    | cycle =>
      obtain ⟨t, ht, -⟩ := h.cycle_answers hr (opTable s.params)
      exact .inl ⟨t, ht⟩
    | _ => cases hh
  all_goals exact .inl ⟨_, inCycle_running hr _⟩

/-- Every operation is a host command, REBUILD, ENTER or RESULT, or performed within a cycle only. -/
theorem instr_kinds (i : Instr) :
    InCycleOnly i ∨ (∃ c, i = commandInstr c) ∨ i = .rebuild ∨ i = .enter ∨ i = .result := by
  cases i with
  | init a m k => exact .inr (.inl ⟨.initialization a m k, rfl⟩)
  | attach p => exact .inr (.inl ⟨.attach p, rfl⟩)
  | run => exact .inr (.inl ⟨.run, rfl⟩)
  | runp p => exact .inr (.inl ⟨.runp p, rfl⟩)
  | snapshot => exact .inr (.inl ⟨.snapshot, rfl⟩)
  | rebuild | enter | result => simp
  | _ => exact .inl (by simp [InCycleOnly, isPrimitive, performsHandler])

/-- Settles O43: the refusals and the two faults by name, and under the invariant an answer everywhere else. -/
theorem stopsOnlyWhereNotPerformed : Obligations.StopsOnlyWhereNotPerformed := by
  refine ⟨fun i s hi hr => exec_outside_cycle hi hr, fun s => exec_rebuild_outside, fun s => exec_enter_outside,
    fun s => exec_result_outside, fun s => dispatchUnder_no_frame _,
    fun s hr h => ⟨execCycle_no_frame hr h, step_no_frame hr h⟩, fun s => exec_pop_absent, fun i s h => ?_⟩
  obtain hi | ⟨c, rfl⟩ | rfl | rfl | rfl := instr_kinds i
  · by_cases hr : s.fsm = .running
    · obtain ht | ⟨hd, hf⟩ := h.inCycle_answers hr hi
      · exact .inl ht
      · exact .inr (.inr (.inr (.inr (.inr ⟨hd, hr, hf⟩))))
    · exact .inr (.inl ⟨hi, hr⟩)
  · exact .inl (exec_command_answers c s)
  · by_cases hs : s.fsm = .ready ∨ s.fsm = .running
    · exact .inl ⟨_, exec_rebuild hs⟩
    · exact .inr (.inr (.inl ⟨rfl, not_or.mp hs⟩))
  · by_cases hs : s.fsm = .ready
    · exact .inl ⟨_, exec_enter hs⟩
    · exact .inr (.inr (.inr (.inl ⟨rfl, hs⟩)))
  · obtain ⟨-, hres⟩ | ⟨-, hres⟩ | ⟨h₁, h₂, -⟩ := s.result?_cases
    · exact .inl ⟨_, exec_result_of_result? hres⟩
    · exact .inl ⟨_, exec_result_of_result? hres⟩
    · exact .inr (.inr (.inr (.inr (.inl ⟨rfl, h₁, h₂⟩))))

end Sys2Proof.Machine
